-- ==== Sys2Proof/Word.lean ====
section
/-! DEFINITION. The word types: a byte, a command word (20_memory R41), a request word (30_encoding R60). -/

namespace Sys2Proof

/-- One byte: a register address or a data byte (00_scope R7, `ADDR_W` and `DATA_W`). -/
abbrev Byte := BitVec 8

/-- One command word, `word[15:8]` the register address and `word[7:0]` the data byte (20_memory R41). -/
abbrev CmdWord := BitVec 16

/-- One request word `REQ[71:0]` (30_encoding R60). -/
abbrev ReqWord := BitVec 72

end Sys2Proof
end

