-- ==== Sys2Proof/Syntax.lean ====
section
/-! DEFINITION. The requests of 30_encoding R62, one constructor per row of spec/opcode_table.json. Each constructor holds
the fields its operation uses (R65) and no others; the fields an operation ignores are dropped by the decoder. -/

namespace Sys2Proof

/-- The plane selector codes of `PL` (30_encoding R63). `pl3` is code 3, which names no plane. -/
inductive PlaneCode where
  | p0
  | p1
  | both
  | pl3
deriving DecidableEq, Repr

/-- The sixteen requests. `A` and the `B` of DIGIT are unsigned numbers, the `B` of NUMBER is a signed one (R61). -/
inductive Instr where
  /-- OP 0x1, `A` = blink mode code (41_command_encoder R102). -/
  | setblink (mode : Nat)
  /-- OP 0x2, no operand (R103). -/
  | clear
  /-- OP 0x3, `A` = display mode code (R104). -/
  | setdisp (mode : Nat)
  /-- OP 0x4, `A` = digit count (R105). -/
  | setdigits (n : Nat)
  /-- OP 0x5, `A` = level (R106). -/
  | setint (level : Nat)
  /-- OP 0x6, `A` = decode mask (R107). -/
  | setdecode (mask : Nat)
  /-- OP 0x7, `PL` plane, `DP` decimal point, `A` digit index, `B` value (R108). -/
  | digit (pl : PlaneCode) (dp : Bool) (index : Nat) (value : Nat)
  /-- OP 0x8, `PL` plane, `A` digit count, `B` signed value (R109). -/
  | number (pl : PlaneCode) (n : Nat) (value : Int)
  /-- OP 0x0, reserved (30_encoding R68). -/
  | reserved0
  /-- OP 0x9, reserved (R68). -/
  | reserved9
  /-- OP 0xA, reserved (R68). -/
  | reservedA
  /-- OP 0xB, reserved (R68). -/
  | reservedB
  /-- OP 0xC, reserved (R68). -/
  | reservedC
  /-- OP 0xD, reserved (R68). -/
  | reservedD
  /-- OP 0xE, reserved (R68). -/
  | reservedE
  /-- OP 0xF, reserved (R68). -/
  | reservedF
deriving DecidableEq, Repr

end Sys2Proof
end

