-- ==== Sys2Proof/Config.lean ====
section
/-! DEFINITION. What is fixed when the block is instantiated (00_scope R7), and the free values, which have no body. -/

namespace Sys2Proof

/-- What the Bus Transport answers to one transmission (60_exceptions R178). -/
inductive XferResult where
  | ok
  | fail
deriving DecidableEq, Repr, Inhabited

/-- `DIGIT_ORDER` (00_scope R7, 92_eei_decisions D11): the digit index that slot `i` of an `n`-digit number goes to is
`n-1-i` under `lsdAt0` and `i` under `msdAt0`. -/
inductive DigitOrder where
  | lsdAt0
  | msdAt0
deriving DecidableEq, Repr

/-- `DECODE_MASK_MAX` is 0x07 or 0xFF (00_scope R8 (4), 92_eei_decisions D9). -/
inductive DecodeMaskMax where
  | max07
  | maxFF
deriving DecidableEq, Repr

/-- The parameters of 00_scope R7 that the source does not fix. Those it fixes (widths, 8 digits, 3 planes, the
must-be-zero bit, the decimal-point bit, the width of the number) are in the types and the operations. -/
structure Params where
  /-- `ADDR_NOOP`. -/
  addrNoop : Byte
  /-- `ADDR_DECODE`. -/
  addrDecode : Byte
  /-- `ADDR_INTENSITY`. -/
  addrIntensity : Byte
  /-- `ADDR_SCANLIMIT`. -/
  addrScanLimit : Byte
  /-- `ADDR_CONFIG`. -/
  addrConfig : Byte
  /-- `ADDR_TEST`. -/
  addrTest : Byte
  /-- `BASE_P0`. -/
  baseP0 : Byte
  /-- `BASE_P1`. -/
  baseP1 : Byte
  /-- `BASE_BOTH`. -/
  baseBoth : Byte
  /-- `CFG_S`, the bit of operation mode. -/
  cfgS : Fin 8
  /-- `CFG_B`, the bit of blink rate. -/
  cfgB : Fin 8
  /-- `CFG_E`, the bit of blink enable. -/
  cfgE : Fin 8
  /-- `CFG_T`, the bit of blink-timing reset. -/
  cfgT : Fin 8
  /-- `CFG_R`, the bit of reset data. -/
  cfgR : Fin 8
  /-- `DECODE_MASK_MAX`. -/
  decodeMaskMax : DecodeMaskMax
  /-- `DIGIT_ORDER`. -/
  digitOrder : DigitOrder
  /-- `BLINK_OP_MODE`. -/
  blinkOpMode : Bool
  /-- `FONT7`, in the order of 43_font_table R152: `0` to `9`, then `A` to `Z`. -/
  font7 : Vector (BitVec 7) 36
  /-- `CS_ID`, the chip-select line this instance drives. -/
  csId : Nat
deriving DecidableEq, Repr

/-- `CS_ID` is OPEN (00_scope R7, D34): no proof knows its value. Log entry 4. -/
opaque Config.csId : Nat

/-- The outcome of a transmission is a free draw (10_state R28, 93_implementation_defined U9). Draw `k` of those that
`State.draws` does not list. Log entry 8. -/
opaque Config.freeXfer : Nat → XferResult

/-- The address output of `resolve_digit_address` when `ok` = 0 is any byte (93_implementation_defined U4); no rule
reads it. A function of the decoder's inputs. Log entry 10. -/
opaque Config.unresolvedAddr : PlaneCode → Nat → Byte

end Sys2Proof
end

