-- ==== Sys2Proof/WellFormed.lean ====
section
/-! DEFINITION. Which requests and which parameter records are well formed. -/

namespace Sys2Proof

/-- The number fits an unsigned field of 32 bits (30_encoding R60; R71: an operand that does not fit its field is an
assembler error, not a request). -/
abbrev fitsU32 (n : Nat) : Prop := n < 2 ^ 32

/-- The number fits a 32-bit two's-complement field (30_encoding R61, R71). -/
abbrev fitsS32 (v : Int) : Prop := -2 ^ 31 ≤ v ∧ v < 2 ^ 31

/-- Every operand fits its field (30_encoding R60, R61, R71). -/
def Instr.wellFormed : Instr → Bool
  | .setblink mode => decide (fitsU32 mode)
  | .clear => true
  | .setdisp mode => decide (fitsU32 mode)
  | .setdigits n => decide (fitsU32 n)
  | .setint level => decide (fitsU32 level)
  | .setdecode mask => decide (fitsU32 mask)
  | .digit _ _ index value => decide (fitsU32 index) && decide (fitsU32 value)
  | .number _ n value => decide (fitsU32 n) && decide (fitsS32 value)
  | .reserved0 => true
  | .reserved9 => true
  | .reservedA => true
  | .reservedB => true
  | .reservedC => true
  | .reservedD => true
  | .reservedE => true
  | .reservedF => true

/-- The six control register addresses (20_memory R46). -/
def Params.controlAddrs (p : Params) : List Byte :=
  [p.addrNoop, p.addrDecode, p.addrIntensity, p.addrScanLimit, p.addrConfig, p.addrTest]

/-- The first addresses of the three digit blocks (20_memory R46). -/
def Params.bases (p : Params) : List Byte := [p.baseP0, p.baseP1, p.baseBoth]

/-- The bit positions of the five named configuration fields (40_register_model R82). -/
def Params.cfgBits (p : Params) : List (Fin 8) := [p.cfgS, p.cfgB, p.cfgE, p.cfgT, p.cfgR]

/-- `CFG_RSVD`, the must-be-zero bit (00_scope R7). -/
def cfgReserved : Fin 8 := 1

/-- The address lies in the 8-address block that begins at `base` (20_memory R45, R46). -/
abbrev inBlock (base a : Byte) : Prop := base.toNat ≤ a.toNat ∧ a.toNat ≤ base.toNat + 7

/-- 00_scope R8 (1): each digit block lies in 0x00 to 0xFF and no two of them meet. -/
abbrev Params.blocksOk (p : Params) : Prop :=
  (∀ b ∈ p.bases, b.toNat + 7 ≤ 0xFF) ∧
  p.bases.Pairwise fun b c => b.toNat + 8 ≤ c.toNat ∨ c.toNat + 8 ≤ b.toNat

/-- 00_scope R8 (2): the control addresses are distinct and outside the digit blocks. -/
abbrev Params.controlOk (p : Params) : Prop :=
  p.controlAddrs.Nodup ∧ ∀ a ∈ p.controlAddrs, ∀ b ∈ p.bases, ¬ inBlock b a

/-- 00_scope R8 (3): the configuration bits are distinct and differ from the must-be-zero bit. -/
abbrev Params.cfgOk (p : Params) : Prop :=
  p.cfgBits.Nodup ∧ cfgReserved ∉ p.cfgBits

/-- Every constraint of 00_scope R8; its (4) is in the type `DecodeMaskMax`. -/
abbrev Params.wellFormed (p : Params) : Prop := p.blocksOk ∧ p.controlOk ∧ p.cfgOk

end Sys2Proof
end

