-- ==== Sys2Proof/Machine/Defaults.lean ====
section
/-! DEFINITION. The default values of the parameters (00_scope R7) and the default font table (43_font_table R152). They
are the spec's own choices or general knowledge, as the spec marks them (D9, D11, D15 to D18); log entry 3. -/

namespace Sys2Proof.Machine

/-- The ten digit patterns of 43_font_table R152. -/
def defaultFontDigits : List (BitVec 7) :=
  [0x7E, 0x30, 0x6D, 0x79, 0x33, 0x5B, 0x5F, 0x70, 0x7F, 0x7B]

/-- The patterns of `A` to `M` of 43_font_table R152. -/
def defaultFontLettersAM : List (BitVec 7) :=
  [0x77, 0x1F, 0x4E, 0x3D, 0x4F, 0x47, 0x5E, 0x37, 0x06, 0x3C, 0x57, 0x0E, 0x54]

/-- The patterns of `N` to `Z` of 43_font_table R152. -/
def defaultFontLettersNZ : List (BitVec 7) :=
  [0x15, 0x1D, 0x67, 0x73, 0x05, 0x5B, 0x0F, 0x3E, 0x1C, 0x2A, 0x37, 0x3B, 0x6D]

/-- Default `FONT7` (43_font_table R152), `0` to `9` and then `A` to `Z`. -/
def defaultFont7 : Vector (BitVec 7) 36 :=
  ⟨(defaultFontDigits ++ defaultFontLettersAM ++ defaultFontLettersNZ).toArray, by decide⟩

/-- The default parameters of 00_scope R7. `CS_ID` is OPEN and stays the free value `Config.csId`. -/
def defaultParams : Params where
  addrNoop := 0x00
  addrDecode := 0x01
  addrIntensity := 0x02
  addrScanLimit := 0x03
  addrConfig := 0x04
  addrTest := 0x07
  baseP0 := 0x20
  baseP1 := 0x40
  baseBoth := 0x60
  cfgS := 0
  cfgB := 2
  cfgE := 3
  cfgT := 4
  cfgR := 5
  decodeMaskMax := .max07
  digitOrder := .lsdAt0
  blinkOpMode := true
  font7 := defaultFont7
  csId := Config.csId

end Sys2Proof.Machine
end

