-- ==== Sys2Proof/Machine/State.lean ====
section
/-! DEFINITION. The state of the block (10_state R20), what the model records of it (R30, R178, R153), the observation
of the target chip (20_memory R45), and the outside's moves and answers that the step reads. -/

namespace Sys2Proof.Machine

/-- `phase` of 10_state R20: `busy` from the acceptance of a valid request until its response. -/
inductive Phase where
  | idle
  | busy
deriving DecidableEq, Repr

/-- The `STATUS` of a response (30_encoding R66, 60_exceptions R170). -/
inductive Status where
  | ok
  | invalidArgument
  | transportFailure
deriving DecidableEq, Repr

/-- The two kinds of recorded event (10_state R30). -/
inductive Event where
  /-- One bracketed transmission of a word and its outcome. -/
  | xfer (w : CmdWord) (r : XferResult)
  /-- One response; `count` is the 4-bit `COUNT` field (30_encoding R66). -/
  | respond (status : Status) (count : BitVec 4)
deriving DecidableEq, Repr

/-- The block's calls to the Bus Transport (60_exceptions R178). -/
inductive BusCall where
  | assertSelect (line : Nat)
  /-- The two bytes, the address byte first. -/
  | transmit (addrByte dataByte : Byte)
  | deassertSelect (line : Nat)
deriving DecidableEq, Repr

/-- What one query of the font port gave: the character and the two outputs (43_font_table R150, R153). -/
structure FontResult where
  char : Byte
  hit : Bool
  pat : Byte
deriving DecidableEq, Repr

/-- One move of the outside (log entry 7). -/
inductive Input where
  /-- A request of a requester that waits: it stays on the port until the block is ready (10_state R29, 70_reset R198). -/
  | request (w : ReqWord)
  /-- A request presented at this very step, whether the block is ready or not (10_state R29). -/
  | requestNow (w : ReqWord)
  /-- A query of the font port (43_font_table R153). -/
  | fontQuery (c : Byte)
  /-- A reset of the block (70_reset R190, R192). -/
  | reset
  /-- Nothing arrives during this step. -/
  | quiet
deriving DecidableEq, Repr

/-- Cells that hold a known byte, by address: strictly rising addresses, an unlisted cell is `unknown` (20_memory R45). -/
abbrev Memory := List Host.Cell

/-- The canonical form: addresses strictly rising. An unlisted cell reads as unknown, which no entry can equal. -/
abbrev Memory.wf (m : Memory) : Prop := m.Pairwise fun c d => c.1 < d.1

/-- The observation of the target (20_memory R45): control registers by address, and the digit cells of both planes. -/
structure Target where
  reg : Memory
  p0 : Memory
  p1 : Memory
deriving DecidableEq, Repr

/-- Every cell of the target is unknown. -/
def Target.unknown : Target := { reg := [], p0 := [], p1 := [] }

/-- The whole state. The first four fields are the block's own (10_state R20: nothing else in the block is state). -/
structure State where
  /-- 10_state R20. -/
  phase : Phase
  /-- Words of the current request not yet sent, in send order (10_state R20). -/
  pending : List CmdWord
  /-- Words of the current request sent successfully (10_state R20). -/
  sent : BitVec 4
  /-- Chip-select asserted toward the Bus Transport (10_state R20). -/
  sel : Bool
  /-- The parameters of this instance (00_scope R7); no step writes them. Log entry 3. -/
  params : Params
  /-- The observation of the target (20_memory R45). -/
  target : Target
  /-- Every `xfer` and every response so far, oldest first (10_state R30). -/
  trace : List Event
  /-- Every call to the Bus Transport so far, oldest first (60_exceptions R178). -/
  calls : List BusCall
  /-- Every answer of the font port so far, oldest first (43_font_table R153). -/
  fontResults : List FontResult
  /-- The outside's moves not yet made, next first. The model's own field, log entry 7. -/
  inputs : List Input
  /-- Outcomes of the next transmissions, next first. The model's own field, log entry 8. -/
  draws : List XferResult
  /-- How many free draws were used. The model's own field, log entry 8. -/
  drawCount : Nat
deriving DecidableEq, Repr

/-- The block has no fault: its two errors are responses, after which it is `Idle` again (60_exceptions R172, R176). -/
inductive Fault where
deriving DecidableEq, Repr

/-- Why the model has no move. -/
inductive Refusal where
  /-- An arm of `exec` that has no meaning yet. Raised by no arm of this model. Safe. -/
  | notModelled (mnemonic : String)
  /-- A request presented while `Busy`: the model has no move (10_state R29, 93_implementation_defined U10). Raised by
  `accept`, so by every meaning in phase `Busy`. Unsafe, as D25 says: a claim says nothing of a breaching requester. -/
  | requestWhileBusy
deriving DecidableEq, Repr

/-- The machine right after reset (70_reset R190), at the default parameters, every target cell unknown (R191, log
entry 5), nothing recorded and nothing presented (log entries 6 to 8). -/
def State.reset : State where
  phase := .idle
  pending := []
  sent := 0
  sel := false
  params := defaultParams
  target := Target.unknown
  trace := []
  calls := []
  fontResults := []
  inputs := []
  draws := []
  drawCount := 0

end Sys2Proof.Machine
end

