-- ==== Sys2Proof/Machine/Operands.lean ====
section
/-! DEFINITION. Operand forms shared by the requests: the command word (20_memory R41), the plane and mode codes
(30_encoding R63, R64), the digit/plane address decoder (40_register_model R80) and what a validation answers (R11). -/

namespace Sys2Proof.Machine

/-- What the pure function `encode` of 00_scope R11 answers: InvalidArgument, or the words to send in order. -/
inductive EncodeResult where
  | invalidArgument
  | words (ws : List CmdWord)
deriving DecidableEq, Repr

/-- The command word `{addr[7:0], data[7:0]}` (20_memory R41, 00_scope R10 (2)). -/
def cmd (addr data : Byte) : CmdWord := addr ++ data

/-- The register address of a command word, `word[15:8]` (20_memory R41). -/
def cmdAddr (w : CmdWord) : Byte := w.extractLsb' 8 8

/-- The data byte of a command word, `word[7:0]` (20_memory R41). -/
def cmdData (w : CmdWord) : Byte := w.extractLsb' 0 8

/-- The first digit address of a plane; code 3 names no plane (40_register_model R80). -/
def planeBase (p : Params) : PlaneCode → Option Byte
  | .p0 => some p.baseP0
  | .p1 => some p.baseP1
  | .both => some p.baseBoth
  | .pl3 => none

/-- The two outputs of the address decoder (40_register_model R80). -/
structure AddrOut where
  ok : Bool
  addr : Byte
deriving DecidableEq, Repr

/-- `resolve_digit_address` (40_register_model R80). When `ok` = 0 the address output is a free value (U4). -/
def resolveDigitAddress (p : Params) (pl : PlaneCode) (d : Nat) : AddrOut :=
  if d > 7 then ⟨false, Config.unresolvedAddr pl d⟩
  else
    match planeBase p pl with
    | none => ⟨false, Config.unresolvedAddr pl d⟩
    | some base => ⟨true, base + BitVec.ofNat 8 d⟩

/-- Blink enable and blink rate of a blink mode code: 0 disabled, 1 slow, 2 fast, no other (30_encoding R64 (1),
41_command_encoder R102). -/
def blinkFields : Nat → Option (Bool × Bool)
  | 0 => some (false, false)
  | 1 => some (true, false)
  | 2 => some (true, true)
  | _ => none

/-- The number `DECODE_MASK_MAX` stands for (00_scope R7, R8 (4)). -/
def decodeMaskLimit : DecodeMaskMax → Nat
  | .max07 => 0x07
  | .maxFF => 0xFF

/-- The data byte of a digit register, `{dp, 000, value[3:0]}` (41_command_encoder R108, 40_register_model R88). -/
def digitData (dp : Bool) (value : BitVec 4) : Byte := BitVec.ofBool dp ++ (0 : BitVec 3) ++ value

/-- The digit index slot `i` of an `n`-digit number goes to (41_command_encoder R109, `DIGIT_ORDER`). -/
def digitOfSlot (order : DigitOrder) (n i : Nat) : Nat :=
  match order with
  | .lsdAt0 => n - 1 - i
  | .msdAt0 => i

end Sys2Proof.Machine
end

