-- ==== Sys2Proof/Machine/Flags.lean ====
section
/-! DEFINITION. The block has no flags (10_state R23): the outcome of a request is only in the response word, packed here
(30_encoding R66). -/

namespace Sys2Proof.Machine

/-- The `STATUS` code (30_encoding R66). Code 3 is never produced. -/
def statusCode : Status → BitVec 2
  | .ok => 0
  | .invalidArgument => 1
  | .transportFailure => 2

/-- The response word `RESP[7:0]`: zeros in 7:6, `COUNT` in 5:2, `STATUS` in 1:0 (30_encoding R66). -/
def respWord (status : Status) (count : BitVec 4) : Byte := (0 : BitVec 2) ++ count ++ statusCode status

end Sys2Proof.Machine
end

