-- ==== Sys2Proof/Machine/RegisterModel.lean ====
section
/-! DEFINITION. The configuration packer (40_register_model R82) and the field layouts of the target's registers (R83 to
R88), as named views of a data byte. -/

namespace Sys2Proof.Machine

/-- `v[k] <- b`. -/
def setBit (v : Byte) (k : Fin 8) (b : Bool) : Byte :=
  if b then v ||| BitVec.twoPow 8 k else v &&& ~~~ BitVec.twoPow 8 k

/-- `pack_configuration` (40_register_model R82): operation mode, reset data, blink rate, blink enable, blink-timing
reset, in the source's order; the must-be-zero bit is written 0 last and every bit not named stays 0. -/
def packConfiguration (p : Params) (op rd br be bt : Bool) : Byte :=
  let v0 : Byte := 0x00
  let v1 := setBit v0 p.cfgS op
  let v2 := setBit v1 p.cfgB br
  let v3 := setBit v2 p.cfgE be
  let v4 := setBit v3 p.cfgT bt
  let v5 := setBit v4 p.cfgR rd
  setBit v5 cfgReserved false

/-- The fields of a configuration byte (40_register_model R83). -/
structure ConfigFields where
  operationMode : Bool
  blinkFast : Bool
  blinkEnable : Bool
  blinkTimingReset : Bool
  resetData : Bool
deriving DecidableEq, Repr

/-- The named fields of a configuration byte (40_register_model R83). -/
def configFields (p : Params) (v : Byte) : ConfigFields where
  operationMode := v.getLsbD p.cfgS
  blinkFast := v.getLsbD p.cfgB
  blinkEnable := v.getLsbD p.cfgE
  blinkTimingReset := v.getLsbD p.cfgT
  resetData := v.getLsbD p.cfgR

/-- Bit `k` of the decode mask: 1 enables Code-B decoding of position `k`. The polarity is general knowledge
(40_register_model R84, 93 G7); no word depends on it. -/
def decodeEnabled (mask : Byte) (k : Fin 8) : Bool := mask.getLsbD k

/-- The intensity level of an intensity byte, bits 3:0 (40_register_model R85). DESIGN CHOICE: of a byte whose bits 7:4 are
not 0, which R85 does not give and the block never sends, the bits 3:0 are read all the same. Log entry 15. -/
def intensityLevel (v : Byte) : BitVec 4 := v.extractLsb' 0 4

/-- The digit count a scan-limit byte asks for: data `n-1` means `n` digits (40_register_model R86). DESIGN CHOICE: of a byte
above 7, whose meaning R86 leaves open and which the block never sends, the count is the whole byte plus 1. Log entry 15. -/
def scanLimitDigits (v : Byte) : Nat := v.toNat + 1

/-- Position `k` is driven: positions 0 to `n-1` are (40_register_model R86; the prefix reading is general knowledge, G9).
DESIGN CHOICE: under a byte above 7 every position is. Log entry 15. -/
def positionDriven (v : Byte) (k : Fin 8) : Bool := decide (k.val < scanLimitDigits v)

/-- The two documented display-test bytes (40_register_model R87). -/
inductive DisplayMode where
  | test
  | normal
deriving DecidableEq, Repr

/-- The display mode a display-test byte asks for: 0x01 normal, 0x00 test, no other is written (40_register_model R87). -/
def displayMode (v : Byte) : Option DisplayMode :=
  if v = 0x00 then some .test else if v = 0x01 then some .normal else none

/-- The decimal point of a digit byte, bit 7 (40_register_model R88). -/
def digitPoint (v : Byte) : Bool := v.getLsbD 7

/-- The digit value of a digit byte, bits 3:0 (40_register_model R88). -/
def digitValue (v : Byte) : BitVec 4 := v.extractLsb' 0 4

end Sys2Proof.Machine
end

