-- ==== Sys2Proof/Machine/Tables.lean ====
section
/-! DEFINITION. The two read-only tables: the segment font (43_font_table R150 to R152) and the Code-B index table (R154). -/

namespace Sys2Proof.Machine

/-- The place in `FONT7` of a character of the table's domain: `0` to `9`, then `A` to `Z`; no other (43_font_table R150). -/
def fontIndex (c : Byte) : Option (Fin 36) :=
  if h : 0x30 ≤ c.toNat ∧ c.toNat ≤ 0x39 then some ⟨c.toNat - 0x30, by omega⟩
  else if h : 0x41 ≤ c.toNat ∧ c.toNat ≤ 0x5A then some ⟨c.toNat - 0x41 + 10, by omega⟩
  else none

/-- `font_lookup` (43_font_table R150): a hit gives `{0, FONT7[c][6:0]}`, a miss gives 0x00. -/
def fontLookup (p : Params) (c : Byte) : FontResult :=
  match fontIndex c with
  | some k => ⟨c, true, (0 : BitVec 1) ++ p.font7[k]⟩
  | none => ⟨c, false, 0x00⟩

/-- `CB_HYPHEN` (43_font_table R154). -/
def cbHyphen : BitVec 4 := 0xA

/-- `CB_BLANK` (43_font_table R154). -/
def cbBlank : BitVec 4 := 0xF

/-- The two outputs of the Code-B index table (43_font_table R154). -/
structure CodeBOut where
  hit : Bool
  idx : BitVec 4
deriving DecidableEq, Repr

/-- `codeb_index` (43_font_table R154): the digits, then hyphen, E, H, L, P, blank in the source's list order. -/
def codebIndex (c : Byte) : CodeBOut :=
  if 0x30 ≤ c.toNat ∧ c.toNat ≤ 0x39 then ⟨true, BitVec.ofNat 4 (c.toNat - 0x30)⟩
  else if c = 0x2D then ⟨true, cbHyphen⟩
  else if c = 0x45 then ⟨true, 0xB⟩
  else if c = 0x48 then ⟨true, 0xC⟩
  else if c = 0x4C then ⟨true, 0xD⟩
  else if c = 0x50 then ⟨true, 0xE⟩
  else if c = 0x20 then ⟨true, cbBlank⟩
  else ⟨false, 0⟩

/-- The symbol each Code-B index shows, as its ASCII code (43_font_table R155, R154). -/
def codebSymbol (idx : BitVec 4) : Byte :=
  match idx.toNat with
  | 0xA => 0x2D
  | 0xB => 0x45
  | 0xC => 0x48
  | 0xD => 0x4C
  | 0xE => 0x50
  | 0xF => 0x20
  | d => BitVec.ofNat 8 (0x30 + d)

/-- The bit of a no-decode data byte that lights each segment: a to g are bits 6 to 0, the point is bit 7 (43_font_table
R151; all but the point general knowledge, G10). -/
inductive Segment where
  | a
  | b
  | c
  | d
  | e
  | f
  | g
  | point
deriving DecidableEq, Repr

/-- The bit position of a segment (43_font_table R151). -/
def segmentBit : Segment → Fin 8
  | .a => 6
  | .b => 5
  | .c => 4
  | .d => 3
  | .e => 2
  | .f => 1
  | .g => 0
  | .point => 7

/-- The segment is lit by a no-decode data byte (43_font_table R151, 40_register_model R88). -/
def segmentLit (v : Byte) (s : Segment) : Bool := v.getLsbD (segmentBit s)

end Sys2Proof.Machine
end

