-- ==== Sys2Proof/Machine/Decimal.lean ====
section
/-! DEFINITION. The power-of-ten unit (42_decimal_decomposer R130) and the decimal decomposer (R131 to R136). -/

namespace Sys2Proof.Machine

/-- The source's loop of exponentiation by squaring, from result `r`, base `b` and exponent `k`. Four turns are enough
for the unit's 4-bit exponent (42_decimal_decomposer R130). -/
def ipow10Loop : Nat → Nat → Nat → Nat → Nat
  | 0, r, _, _ => r
  | turns + 1, r, b, k =>
    if k > 0 then ipow10Loop turns (if k % 2 = 1 then r * b else r) (b * b) (k / 2) else r

/-- `ipow10`: `10^e` for `e` in 0 to 9; any other exponent is refused (42_decimal_decomposer R130, 93 U5). -/
def ipow10 (e : Nat) : Option Nat :=
  if e ≤ 9 then some (ipow10Loop 4 1 10 e) else none

/-- The lowest `e` decimal digits of `m`, most significant first: digit `(m / 10^j) mod 10` for `j` from `e-1` down to 0
(42_decimal_decomposer R132). The Code-B index of a decimal digit is the digit itself (43_font_table R154). -/
def digitSlots (m : Nat) : Nat → Option (List (BitVec 4))
  | 0 => some []
  | e + 1 =>
    match ipow10 e, digitSlots m e with
    | some q, some rest => some (BitVec.ofNat 4 (m / q % 10) :: rest)
    | _, _ => none

/-- The slots left for magnitude digits: one fewer when the value needs a hyphen (42_decimal_decomposer R132). -/
def magnitudeSlots (v : Int) (n : Nat) : Nat := if v < 0 then n - 1 else n

/-- `decompose(v, n)` (42_decimal_decomposer R132), most significant slot first; `none` is `ok` = 0. The caller presents
`n` from 1 to 8 (R131). -/
def decompose (v : Int) (n : Nat) : Option (List (BitVec 4)) :=
  match ipow10 (magnitudeSlots v n) with
  | none => none
  | some limit =>
    if v.natAbs ≥ limit then none
    else if v < 0 then (digitSlots v.natAbs (magnitudeSlots v n)).map (cbHyphen :: ·)
    else digitSlots v.natAbs (magnitudeSlots v n)

end Sys2Proof.Machine
end

