-- ==== Sys2Proof/Machine/Ops.lean ====
section
/-! DEFINITION. The named operations: cells of the target (20_memory R45), the transport bracket (60_exceptions R178),
the response and the two errors (R170 to R176), accepting a request and the sequencer (10_state R28), reset (70_reset
R190, R192) and the font port (43_font_table R153). -/

namespace Sys2Proof.Machine

/-! ### Cells of the target -/

/-- The cell at an address: a known byte, or `none` for `unknown` (20_memory R45). -/
def Memory.read : Memory → Nat → Option Byte
  | [], _ => none
  | (b, v) :: rest, a => if a = b then some v else Memory.read rest a

/-- The cell at an address becomes the known byte `d`; the list stays in rising order (20_memory R45). -/
def Memory.write : Memory → Nat → Byte → Memory
  | [], a, d => [(a, d)]
  | (b, v) :: rest, a, d =>
    if a < b then (a, d) :: (b, v) :: rest
    else if a = b then (a, d) :: rest
    else (b, v) :: Memory.write rest a d

/-- What a successful word does to the cell or cells it names (20_memory R45, the `if`, `elif` and `else` of `apply`). -/
def Target.store (p : Params) (t : Target) (a d : Byte) : Target :=
  if inBlock p.baseP0 a then { t with p0 := t.p0.write (a.toNat - p.baseP0.toNat) d }
  else if inBlock p.baseP1 a then { t with p1 := t.p1.write (a.toNat - p.baseP1.toNat) d }
  else if inBlock p.baseBoth a then
    { t with p0 := t.p0.write (a.toNat - p.baseBoth.toNat) d, p1 := t.p1.write (a.toNat - p.baseBoth.toNat) d }
  else { t with reg := t.reg.write a.toNat d }

/-- Every digit cell of both planes becomes unknown (20_memory R45, 93 U2). -/
def Target.forgetDigits (t : Target) : Target := { t with p0 := [], p1 := [] }

/-- The word is a configuration word with the reset-data bit set (20_memory R45). -/
def resetsData (p : Params) (w : CmdWord) : Bool :=
  cmdAddr w == p.addrConfig && (cmdData w).getLsbD p.cfgR

/-- `apply` of 20_memory R45 for one transmission: after a failure every cell is unknown (93 U1). -/
def Target.applyXfer (p : Params) (t : Target) (w : CmdWord) : XferResult → Target
  | .ok =>
    if resetsData p w then (t.store p (cmdAddr w) (cmdData w)).forgetDigits
    else t.store p (cmdAddr w) (cmdData w)
  | .fail => Target.unknown

/-- `apply` of 20_memory R45 for one recorded event: a response changes no cell. -/
def Target.applyEvent (p : Params) (t : Target) : Event → Target
  | .xfer w r => t.applyXfer p w r
  | .respond _ _ => t

/-- The observation after a list of recorded events (20_memory R45). -/
def Target.observe (p : Params) (t : Target) (es : List Event) : Target := es.foldl (Target.applyEvent p) t

/-! ### The Bus Transport -/

/-- `assert_select(CS_ID)` (60_exceptions R178). -/
def assertSelect (s : State) : State :=
  { s with sel := true, calls := s.calls ++ [.assertSelect s.params.csId] }

/-- `deassert_select(CS_ID)` (60_exceptions R178). -/
def deassertSelect (s : State) : State :=
  { s with sel := false, calls := s.calls ++ [.deassertSelect s.params.csId] }

/-- The outcome of the next transmission: the next one listed, and past the end of the list a free draw (10_state R28,
93 U9; log entry 8). -/
def nextOutcome (s : State) : XferResult :=
  match s.draws with
  | r :: _ => r
  | [] => Config.freeXfer s.drawCount

/-- The state after its next outcome was taken. -/
def consumeOutcome (s : State) : State :=
  match s.draws with
  | _ :: rest => { s with draws := rest }
  | [] => { s with drawCount := s.drawCount + 1 }

/-- `transmit([w[15:8], w[7:0]])`, the address byte first (60_exceptions R178, 20_memory R42). -/
def transmit (w : CmdWord) (s : State) : State :=
  { consumeOutcome s with calls := s.calls ++ [.transmit (cmdAddr w) (cmdData w)] }

/-- The order of the bits of a word on the wire, `word[15]` first (20_memory R42). -/
def wireBits (w : CmdWord) : List Bool := (List.range 16).map fun k => w.getLsbD (15 - k)

/-- `xfer(w)` (60_exceptions R178): one bracketed transmission, recorded (10_state R30) and observed (20_memory R45).
Select is released whatever the outcome. -/
def xfer (w : CmdWord) (s : State) : State :=
  let s' := deassertSelect (transmit w (assertSelect s))
  { s' with
    trace := s'.trace ++ [.xfer w (nextOutcome s)]
    target := s'.target.applyXfer s'.params w (nextOutcome s) }

/-! ### Responses and errors -/

/-- The response of a request (30_encoding R66), recorded (10_state R30). -/
def respond (status : Status) (count : BitVec 4) (s : State) : State :=
  { s with trace := s.trace ++ [.respond status count] }

/-- The end of a request: back to `Idle` with nothing carried over (10_state R28, 60_exceptions R176). -/
def toIdle (s : State) : State := { s with phase := .idle, pending := [], sent := 0 }

/-- InvalidArgument is raised: one response with `COUNT` = 0 and nothing else (60_exceptions R170, R175). -/
def raiseInvalidArgument (s : State) : State := respond .invalidArgument 0 s

/-- TransportFailure is raised: a response with the words sent before the failed one, then `Idle` (60_exceptions R170,
R175, R176). -/
def raiseTransportFailure (s : State) : State := toIdle (respond .transportFailure s.sent s)

/-! ### The steps of 10_state R28 -/

/-- `Accept(req)` of 10_state R28, from what `encode` answers. A request presented while `Busy` has no move (R29). -/
def accept (r : EncodeResult) (s : State) : Host.Outcome State Fault Refusal :=
  match s.phase with
  | .busy => .refused .requestWhileBusy
  | .idle =>
    match r with
    | .invalidArgument => .next (raiseInvalidArgument s)
    | .words ws => .next { s with phase := .busy, pending := ws, sent := 0 }

/-- `Send-ok` and `Send-fail` of 10_state R28: the first pending word is sent, and the outcome decides. -/
def sendWord (w : CmdWord) (rest : List CmdWord) (s : State) : State :=
  match nextOutcome s with
  | .ok => { xfer w s with pending := rest, sent := s.sent + 1 }
  | .fail => raiseTransportFailure (xfer w s)

/-- `Complete` of 10_state R28. -/
def complete (s : State) : State := toIdle (respond .ok s.sent s)

/-- The block's own step with no input: the sequencer when `Busy` (41_command_encoder R100, 10_state R28), nothing when
`Idle` (log entry 7). -/
def advance (s : State) : State :=
  match s.phase with
  | .idle => s
  | .busy =>
    match s.pending with
    | [] => complete s
    | w :: rest => sendWord w rest s

/-! ### Reset and the font port -/

/-- A reset: in `Busy` the request is abandoned without a response and every target cell becomes unknown (70_reset
R192); the block's state takes its reset values (R190). In `Idle` the observation is kept (log entry 9). -/
def resetBlock (s : State) : State :=
  match s.phase with
  | .idle => { toIdle s with sel := false }
  | .busy => { toIdle s with sel := false, target := Target.unknown }

/-- A query of the font port: its answer is given and nothing else changes (43_font_table R153). -/
def queryFont (c : Byte) (s : State) : State :=
  { s with fontResults := s.fontResults ++ [fontLookup s.params c] }

/-! ### What a requester sees -/

/-- `ready = (phase = Idle)` (10_state R29). -/
def ready (s : State) : Bool := s.phase == .idle

/-- The response words given so far, oldest first (30_encoding R66). -/
def responses (s : State) : List Byte :=
  s.trace.filterMap fun e =>
    match e with
    | .respond st n => some (respWord st n)
    | .xfer _ _ => none

/-- The command words handed to the transport so far, with their outcomes, oldest first (10_state R30). -/
def wordsSent (s : State) : List (CmdWord × XferResult) :=
  s.trace.filterMap fun e =>
    match e with
    | .xfer w r => some (w, r)
    | .respond _ _ => none

end Sys2Proof.Machine
end

