-- ==== Sys2Proof/Machine/ControlOps.lean ====
section
/-! DEFINITION. The requests that write a control register: SETBLINK, CLEAR, SETDISP, SETDIGITS, SETINT, SETDECODE
(41_command_encoder R102 to R107). For each, its part of the pure function `encode` and its meaning. -/

namespace Sys2Proof.Machine

/-- `encode` of SETBLINK (41_command_encoder R102). -/
def encodeSetblink (p : Params) (mode : Nat) : EncodeResult :=
  match blinkFields mode with
  | none => .invalidArgument
  | some (be, br) => .words [cmd p.addrConfig (packConfiguration p p.blinkOpMode false br be false)]

/-- SETBLINK (41_command_encoder R102). -/
def execSetblink (mode : Nat) (s : State) : Host.Outcome State Fault Refusal :=
  accept (encodeSetblink s.params mode) s

/-- `encode` of CLEAR (41_command_encoder R103). -/
def encodeClear (p : Params) : EncodeResult :=
  .words [cmd p.addrConfig (packConfiguration p false true false false false)]

/-- CLEAR (41_command_encoder R103). -/
def execClear (s : State) : Host.Outcome State Fault Refusal :=
  accept (encodeClear s.params) s

/-- `encode` of SETDISP (41_command_encoder R104). -/
def encodeSetdisp (p : Params) (mode : Nat) : EncodeResult :=
  if mode > 1 then .invalidArgument else .words [cmd p.addrTest (BitVec.ofNat 8 mode)]

/-- SETDISP (41_command_encoder R104). -/
def execSetdisp (mode : Nat) (s : State) : Host.Outcome State Fault Refusal :=
  accept (encodeSetdisp s.params mode) s

/-- `encode` of SETDIGITS (41_command_encoder R105). -/
def encodeSetdigits (p : Params) (n : Nat) : EncodeResult :=
  if n < 1 ∨ n > 8 then .invalidArgument else .words [cmd p.addrScanLimit (BitVec.ofNat 8 (n - 1))]

/-- SETDIGITS (41_command_encoder R105). -/
def execSetdigits (n : Nat) (s : State) : Host.Outcome State Fault Refusal :=
  accept (encodeSetdigits s.params n) s

/-- `encode` of SETINT (41_command_encoder R106). -/
def encodeSetint (p : Params) (level : Nat) : EncodeResult :=
  if level > 15 then .invalidArgument
  else .words [cmd p.addrIntensity ((BitVec.ofNat 4 level).setWidth 8)]

/-- SETINT (41_command_encoder R106). -/
def execSetint (level : Nat) (s : State) : Host.Outcome State Fault Refusal :=
  accept (encodeSetint s.params level) s

/-- `encode` of SETDECODE (41_command_encoder R107). -/
def encodeSetdecode (p : Params) (mask : Nat) : EncodeResult :=
  if mask > decodeMaskLimit p.decodeMaskMax then .invalidArgument
  else .words [cmd p.addrDecode (BitVec.ofNat 8 mask)]

/-- SETDECODE (41_command_encoder R107). -/
def execSetdecode (mask : Nat) (s : State) : Host.Outcome State Fault Refusal :=
  accept (encodeSetdecode s.params mask) s

end Sys2Proof.Machine
end

