-- ==== Sys2Proof/Machine/DigitOps.lean ====
section
/-! DEFINITION. The requests that write digit registers: DIGIT (41_command_encoder R108) and NUMBER (R109). -/

namespace Sys2Proof.Machine

/-- `encode` of DIGIT (41_command_encoder R108). -/
def encodeDigit (p : Params) (pl : PlaneCode) (dp : Bool) (index value : Nat) : EncodeResult :=
  if (resolveDigitAddress p pl index).ok = false then .invalidArgument
  else if value > 15 then .invalidArgument
  else .words [cmd (resolveDigitAddress p pl index).addr (digitData dp (BitVec.ofNat 4 value))]

/-- DIGIT (41_command_encoder R108). -/
def execDigit (pl : PlaneCode) (dp : Bool) (index value : Nat) (s : State) : Host.Outcome State Fault Refusal :=
  accept (encodeDigit s.params pl dp index value) s

/-- The word of slot `i` of an `n`-digit number: the slot's Code-B index, zero-extended, to the digit that `DIGIT_ORDER`
gives it (41_command_encoder R109). -/
def numberWord (p : Params) (pl : PlaneCode) (n i : Nat) (slot : BitVec 4) : CmdWord :=
  cmd (resolveDigitAddress p pl (digitOfSlot p.digitOrder n i)).addr (slot.setWidth 8)

/-- The words of a number from slot `i` on, in slot order (41_command_encoder R109, the loop). -/
def numberWordsFrom (p : Params) (pl : PlaneCode) (n : Nat) : Nat → List (BitVec 4) → List CmdWord
  | _, [] => []
  | i, slot :: rest => numberWord p pl n i slot :: numberWordsFrom p pl n (i + 1) rest

/-- `encode` of NUMBER (41_command_encoder R109). -/
def encodeNumber (p : Params) (pl : PlaneCode) (n : Nat) (v : Int) : EncodeResult :=
  if pl = .pl3 then .invalidArgument
  else if n < 1 ∨ n > 8 then .invalidArgument
  else
    match decompose v n with
    | none => .invalidArgument
    | some slots => .words (numberWordsFrom p pl n 0 slots)

/-- NUMBER (41_command_encoder R109). -/
def execNumber (pl : PlaneCode) (n : Nat) (v : Int) (s : State) : Host.Outcome State Fault Refusal :=
  accept (encodeNumber s.params pl n v) s

end Sys2Proof.Machine
end

