-- ==== Sys2Proof/Machine/ReservedOps.lean ====
section
/-! DEFINITION. The eight reserved operation codes: each request is answered with InvalidArgument and sends nothing
(30_encoding R68). -/

namespace Sys2Proof.Machine

/-- `encode` of a reserved operation code (30_encoding R68). -/
def encodeReserved : EncodeResult := .invalidArgument

/-- OP 0x0, reserved (30_encoding R68). -/
def execReserved0 (s : State) : Host.Outcome State Fault Refusal := accept encodeReserved s

/-- OP 0x9, reserved (30_encoding R68). -/
def execReserved9 (s : State) : Host.Outcome State Fault Refusal := accept encodeReserved s

/-- OP 0xA, reserved (30_encoding R68). -/
def execReservedA (s : State) : Host.Outcome State Fault Refusal := accept encodeReserved s

/-- OP 0xB, reserved (30_encoding R68). -/
def execReservedB (s : State) : Host.Outcome State Fault Refusal := accept encodeReserved s

/-- OP 0xC, reserved (30_encoding R68). -/
def execReservedC (s : State) : Host.Outcome State Fault Refusal := accept encodeReserved s

/-- OP 0xD, reserved (30_encoding R68). -/
def execReservedD (s : State) : Host.Outcome State Fault Refusal := accept encodeReserved s

/-- OP 0xE, reserved (30_encoding R68). -/
def execReservedE (s : State) : Host.Outcome State Fault Refusal := accept encodeReserved s

/-- OP 0xF, reserved (30_encoding R68). -/
def execReservedF (s : State) : Host.Outcome State Fault Refusal := accept encodeReserved s

end Sys2Proof.Machine
end

