-- ==== Sys2Proof/Machine/Dispatch.lean ====
section
/-! DEFINITION. One arm per request (41_command_encoder R101). -/

namespace Sys2Proof.Machine

def exec (i : Instr) (s : State) : Host.Outcome State Fault Refusal :=
  match i with
  | .setblink mode => Sys2Proof.Machine.execSetblink mode s
  | .clear => Sys2Proof.Machine.execClear s
  | .setdisp mode => Sys2Proof.Machine.execSetdisp mode s
  | .setdigits n => Sys2Proof.Machine.execSetdigits n s
  | .setint level => Sys2Proof.Machine.execSetint level s
  | .setdecode mask => Sys2Proof.Machine.execSetdecode mask s
  | .digit pl dp index value => Sys2Proof.Machine.execDigit pl dp index value s
  | .number pl n value => Sys2Proof.Machine.execNumber pl n value s
  | .reserved0 => Sys2Proof.Machine.execReserved0 s
  | .reserved9 => Sys2Proof.Machine.execReserved9 s
  | .reservedA => Sys2Proof.Machine.execReservedA s
  | .reservedB => Sys2Proof.Machine.execReservedB s
  | .reservedC => Sys2Proof.Machine.execReservedC s
  | .reservedD => Sys2Proof.Machine.execReservedD s
  | .reservedE => Sys2Proof.Machine.execReservedE s
  | .reservedF => Sys2Proof.Machine.execReservedF s

end Sys2Proof.Machine
end

