-- ==== Sys2Proof/Decode.lean ====
section
/-! DEFINITION. From a request word to the request (30_encoding R60 to R65) and back (R72). Every 72-bit word is some
row of the opcode table (R101), so the decoder is total; only a word of another length is turned away, by name (R70). -/

namespace Sys2Proof

/-- `OP`, bits 71:68 (30_encoding R60). -/
def reqOp (w : ReqWord) : BitVec 4 := w.extractLsb' 68 4

/-- `PL`, bits 67:66. -/
def reqPl (w : ReqWord) : BitVec 2 := w.extractLsb' 66 2

/-- `DP`, bit 65. -/
def reqDp (w : ReqWord) : Bool := w.getLsbD 65

/-- `A`, bits 63:32. -/
def reqA (w : ReqWord) : BitVec 32 := w.extractLsb' 32 32

/-- `B`, bits 31:0. -/
def reqB (w : ReqWord) : BitVec 32 := w.extractLsb' 0 32

/-- The plane a code of `PL` names (30_encoding R63). -/
def planeOfBits (b : BitVec 2) : PlaneCode :=
  match b.toNat with
  | 0 => .p0
  | 1 => .p1
  | 2 => .both
  | _ => .pl3

/-- The request of six fields: `OP` chooses the row (30_encoding R62) and the row takes the fields it uses (R65). `A` is
read as unsigned, `B` as unsigned by DIGIT and as two's complement by NUMBER (R61). The last arm is never reached, since
`OP` has four bits. -/
def decodeFields (op : BitVec 4) (pl : BitVec 2) (dp : Bool) (a b : BitVec 32) : Instr :=
  match op.toNat with
  | 0x0 => .reserved0
  | 0x1 => .setblink a.toNat
  | 0x2 => .clear
  | 0x3 => .setdisp a.toNat
  | 0x4 => .setdigits a.toNat
  | 0x5 => .setint a.toNat
  | 0x6 => .setdecode a.toNat
  | 0x7 => .digit (planeOfBits pl) dp a.toNat b.toNat
  | 0x8 => .number (planeOfBits pl) a.toNat b.toInt
  | 0x9 => .reserved9
  | 0xA => .reservedA
  | 0xB => .reservedB
  | 0xC => .reservedC
  | 0xD => .reservedD
  | 0xE => .reservedE
  | 0xF => .reservedF
  | _ => .reserved0

/-- The request a word stands for (30_encoding R60 to R65). -/
def decode (w : ReqWord) : Instr := decodeFields (reqOp w) (reqPl w) (reqDp w) (reqA w) (reqB w)

/-- Why a row of bits is no request: its length is not the 72 bits of 30_encoding R70. -/
inductive DecodeError where
  | wrongLength (nbits : Nat)
deriving DecidableEq, Repr

/-- A request given as a number of bits and their value: one of another length, or a value beyond 72 bits, is turned
away (30_encoding R70). A shorter one has zeros in the bits it does not list. -/
def decodeBits (nbits w : Nat) : Except DecodeError Instr :=
  if nbits ≤ 72 ∧ w < 2 ^ 72 then .ok (decode (BitVec.ofNat 72 w)) else .error (.wrongLength nbits)

/-- The host's question about one row of the opcode table: a request is one word of 72 bits, so bit `k` of `w` is
`REQ[k]`. -/
def decodeTableWord (nbits w : Nat) : Option Instr :=
  match decodeBits nbits w with
  | .ok i => some i
  | .error _ => none

/-- The code of `PL` that names a plane (30_encoding R63). -/
def planeBits : PlaneCode → BitVec 2
  | .p0 => 0
  | .p1 => 1
  | .both => 2
  | .pl3 => 3

/-- The operation code of a request (30_encoding R62). -/
def opCode : Instr → BitVec 4
  | .setblink _ => 0x1
  | .clear => 0x2
  | .setdisp _ => 0x3
  | .setdigits _ => 0x4
  | .setint _ => 0x5
  | .setdecode _ => 0x6
  | .digit _ _ _ _ => 0x7
  | .number _ _ _ => 0x8
  | .reserved0 => 0x0
  | .reserved9 => 0x9
  | .reservedA => 0xA
  | .reservedB => 0xB
  | .reservedC => 0xC
  | .reservedD => 0xD
  | .reservedE => 0xE
  | .reservedF => 0xF

/-- A request word from its six fields, in the order of 30_encoding R60. -/
def packFields (op : BitVec 4) (pl : BitVec 2) (dp x : Bool) (a b : BitVec 32) : ReqWord :=
  op ++ pl ++ BitVec.ofBool dp ++ BitVec.ofBool x ++ a ++ b

/-- The word of a request, with 0 in every field that its operation ignores (30_encoding R71, R72). -/
def encode (i : Instr) : ReqWord :=
  match i with
  | .setblink mode => packFields (opCode i) 0 false false (BitVec.ofNat 32 mode) 0
  | .clear => packFields (opCode i) 0 false false 0 0
  | .setdisp mode => packFields (opCode i) 0 false false (BitVec.ofNat 32 mode) 0
  | .setdigits n => packFields (opCode i) 0 false false (BitVec.ofNat 32 n) 0
  | .setint level => packFields (opCode i) 0 false false (BitVec.ofNat 32 level) 0
  | .setdecode mask => packFields (opCode i) 0 false false (BitVec.ofNat 32 mask) 0
  | .digit pl dp index value =>
    packFields (opCode i) (planeBits pl) dp false (BitVec.ofNat 32 index) (BitVec.ofNat 32 value)
  | .number pl n value =>
    packFields (opCode i) (planeBits pl) false false (BitVec.ofNat 32 n) (BitVec.ofInt 32 value)
  | .reserved0 => packFields (opCode i) 0 false false 0 0
  | .reserved9 => packFields (opCode i) 0 false false 0 0
  | .reservedA => packFields (opCode i) 0 false false 0 0
  | .reservedB => packFields (opCode i) 0 false false 0 0
  | .reservedC => packFields (opCode i) 0 false false 0 0
  | .reservedD => packFields (opCode i) 0 false false 0 0
  | .reservedE => packFields (opCode i) 0 false false 0 0
  | .reservedF => packFields (opCode i) 0 false false 0 0

end Sys2Proof
end

