-- ==== Sys2Proof/Machine/Fetch.lean ====
section
/-! DEFINITION. What the next step is: a request taken from the port, or a move without one (10_state R28, R29). Also the
pure function `encode` over all requests (41_command_encoder R101), and how the host places a request. -/

namespace Sys2Proof.Machine

/-- The pure function `encode(req)` of 00_scope R11 and 41_command_encoder R101. -/
def encodeRequest (p : Params) (i : Instr) : EncodeResult :=
  match i with
  | .setblink mode => encodeSetblink p mode
  | .clear => encodeClear p
  | .setdisp mode => encodeSetdisp p mode
  | .setdigits n => encodeSetdigits p n
  | .setint level => encodeSetint p level
  | .setdecode mask => encodeSetdecode p mask
  | .digit pl dp index value => encodeDigit p pl dp index value
  | .number pl n value => encodeNumber p pl n value
  | .reserved0 => encodeReserved
  | .reserved9 => encodeReserved
  | .reservedA => encodeReserved
  | .reservedB => encodeReserved
  | .reservedC => encodeReserved
  | .reservedD => encodeReserved
  | .reservedE => encodeReserved
  | .reservedF => encodeReserved

/-- What a step does: run a decoded request, or move on without one. -/
inductive Move where
  | run (i : Instr) (s : State)
  | go (s : State)

/-- The next move. A waiting request is taken when the block is ready and stays on the port while it is `Busy`
(10_state R29, 70_reset R198); `requestNow` is presented at once (R29); a reset acts in either phase (70_reset R190,
R192); a font query leaves the block alone (43_font_table R153); with nothing presented the sequencer moves
(10_state R28). -/
def nextMove (s : State) : Move :=
  match s.inputs with
  | [] => .go (advance s)
  | .request w :: rest =>
    match s.phase with
    | .idle => .run (decode w) { s with inputs := rest }
    | .busy => .go (advance s)
  | .requestNow w :: rest => .run (decode w) { s with inputs := rest }
  | .fontQuery c :: rest => .go (queryFont c { s with inputs := rest })
  | .reset :: rest => .go (resetBlock { s with inputs := rest })
  | .quiet :: rest => .go (advance { s with inputs := rest })

/-- The state with a request word on the port as the very next input, and the block `Idle` so that the next step takes
it. A request still being carried out is dropped: this stands for the host's placing of a program (log entry 7). -/
def placeRequest (w : ReqWord) (s : State) : State :=
  { toIdle s with inputs := .request w :: s.inputs }

end Sys2Proof.Machine
end

