-- ==== Sys2Proof/Machine/Step.lean ====
section
/-! DEFINITION. One step of the machine (10_state R28): a request is decoded and run, or the block moves on. -/

namespace Sys2Proof.Machine

/-- One step: every step is one of the atomic steps of 10_state R28, a reset, a font query, or nothing. -/
def step (s : State) : Host.Outcome State Fault Refusal :=
  match nextMove s with
  | .run i s' => exec i s'
  | .go s' => .next s'

/-- The state whose next step runs the request with these bits (a request is one word of 72 bits, 30_encoding R70). -/
def State.withFetchWord (s : State) (_nbits w : Nat) : State := placeRequest (BitVec.ofNat 72 w) s

end Sys2Proof.Machine
end

