-- ==== Sys2Proof/Machine/Assembler.lean ====
section
/-! DEFINITION. The textual syntax of requests (30_encoding R71) and its encoding (R72): one line of characters gives one
request word, or is an assembler error by name. -/

namespace Sys2Proof.Machine

/-- Why a line is no request (30_encoding R71). -/
inductive AsmError where
  /-- The line holds no request: it is blank or a comment. -/
  | noRequest
  /-- The first word is none of the eight operations and not `.req`. -/
  | unknownMnemonic
  /-- The operands are not those of the operation. -/
  | badOperands
  /-- An operand does not fit its field. -/
  | doesNotFit
deriving DecidableEq, Repr

/-- A blank between the words of a line. -/
def isBlank (c : Char) : Bool := c == ' ' || c == '\t' || c == '\r'

/-- The line without its comment (30_encoding R71: `;` starts a comment), in lower case (case is ignored). -/
def asmText (line : List Char) : List Char := (line.takeWhile (· != ';')).map Char.toLower

/-- The text without the blanks around it. -/
def asmTrim (cs : List Char) : List Char := ((cs.dropWhile isBlank).reverse.dropWhile isBlank).reverse

/-- The pieces of a text between the characters `sep`. -/
def asmSplit (sep : Char) : List Char → List (List Char)
  | [] => [[]]
  | c :: cs =>
    match asmSplit sep cs with
    | [] => [[c]]
    | piece :: rest => if c = sep then [] :: piece :: rest else (c :: piece) :: rest

/-- The operands of a line: separated by commas, none in an empty text (30_encoding R71). -/
def asmOperands (cs : List Char) : List (List Char) :=
  if asmTrim cs = [] then [] else (asmSplit ',' cs).map asmTrim

/-- The value of a digit character in base 16. -/
def asmDigit (c : Char) : Option Nat :=
  if '0' ≤ c ∧ c ≤ '9' then some (c.toNat - '0'.toNat)
  else if 'a' ≤ c ∧ c ≤ 'f' then some (c.toNat - 'a'.toNat + 10)
  else none

/-- The number a row of digits stands for in a base, from the number read so far. -/
def asmDigits (base : Nat) : Nat → List Char → Option Nat
  | acc, [] => some acc
  | acc, c :: cs =>
    match asmDigit c with
    | some d => if d < base then asmDigits base (acc * base + d) cs else none
    | none => none

/-- A hexadecimal number with its `0x` (30_encoding R71). -/
def asmHex : List Char → Option Nat
  | '0' :: 'x' :: c :: cs => asmDigits 16 0 (c :: cs)
  | _ => none

/-- A number: hexadecimal with `0x`, else decimal (30_encoding R71). DESIGN CHOICE: no minus sign may stand before it, so a
negative operand other than NUMBER's value is `badOperands`; R71 leaves the point open. Log entry 12. -/
def asmNat (cs : List Char) : Option Nat :=
  match asmHex cs, cs with
  | some n, _ => some n
  | none, [] => none
  | none, c :: rest => asmDigits 10 0 (c :: rest)

/-- A number that may carry a minus sign: the value of NUMBER and no other operand (30_encoding R71, R72's example -7; log
entry 12). -/
def asmInt : List Char → Option Int
  | '-' :: cs => (asmNat cs).map fun n => -(n : Int)
  | cs => (asmNat cs).map fun n => (n : Int)

/-- `<plane>` of 30_encoding R71. -/
def asmPlane (cs : List Char) : Option PlaneCode :=
  if cs = "p0".toList then some .p0
  else if cs = "p1".toList then some .p1
  else if cs = "both".toList then some .both
  else if cs = "pl3".toList then some .pl3
  else none

/-- The mode words of SETBLINK (30_encoding R71). -/
def asmBlink (cs : List Char) : Option Nat :=
  if cs = "disabled".toList then some 0
  else if cs = "slow".toList then some 1
  else if cs = "fast".toList then some 2
  else none

/-- The mode words of SETDISP (30_encoding R71). -/
def asmDisplay (cs : List Char) : Option Nat :=
  if cs = "test".toList then some 0
  else if cs = "normal".toList then some 1
  else none

/-- The word of a parsed request, if its operands fit their fields (30_encoding R71). -/
def asmFits : Option Instr → Except AsmError ReqWord
  | none => .error .badOperands
  | some i => if i.wellFormed then .ok (encode i) else .error .doesNotFit

/-- A one-number request. -/
def asmOne (read : List Char → Option Nat) (make : Nat → Instr) (ops : List (List Char)) : Option Instr :=
  match ops with
  | [a] => (read a).map make
  | _ => none

/-- `DIGIT <plane>, <index>, <value> [, dp]` (30_encoding R71). -/
def asmDigitReq (ops : List (List Char)) : Option Instr :=
  match ops with
  | [pl, a, b] =>
    match asmPlane pl, asmNat a, asmNat b with
    | some q, some m, some n => some (.digit q false m n)
    | _, _, _ => none
  | [pl, a, b, d] =>
    if d = "dp".toList then
      match asmPlane pl, asmNat a, asmNat b with
      | some q, some m, some n => some (.digit q true m n)
      | _, _, _ => none
    else none
  | _ => none

/-- `NUMBER <plane>, <n>, <value>` (30_encoding R71). -/
def asmNumberReq (ops : List (List Char)) : Option Instr :=
  match ops with
  | [pl, a, b] =>
    match asmPlane pl, asmNat a, asmInt b with
    | some q, some n, some v => some (.number q n v)
    | _, _, _ => none
  | _ => none

/-- `.req <72-bit hex>`: any raw request word (30_encoding R71). -/
def asmRaw (ops : List (List Char)) : Except AsmError ReqWord :=
  match ops with
  | [a] =>
    match asmHex a with
    | some n => if n < 2 ^ 72 then .ok (BitVec.ofNat 72 n) else .error .doesNotFit
    | none => .error .badOperands
  | _ => .error .badOperands

/-- The first word of a line. -/
def asmName (line : List Char) : List Char := (asmTrim (asmText line)).takeWhile fun c => !isBlank c

/-- The operands of a line. -/
def asmOps (line : List Char) : List (List Char) :=
  asmOperands ((asmTrim (asmText line)).dropWhile fun c => !isBlank c)

/-- The request word of a line whose first word and operands are given (30_encoding R71, R72). -/
def assembleRequest (name : List Char) (ops : List (List Char)) : Except AsmError ReqWord :=
  if name = [] then .error .noRequest
  else if name = "setblink".toList then asmFits (asmOne asmBlink .setblink ops)
  else if name = "clear".toList then (if ops = [] then .ok (encode .clear) else .error .badOperands)
  else if name = "setdisp".toList then asmFits (asmOne asmDisplay .setdisp ops)
  else if name = "setdigits".toList then asmFits (asmOne asmNat .setdigits ops)
  else if name = "setint".toList then asmFits (asmOne asmNat .setint ops)
  else if name = "setdecode".toList then asmFits (asmOne asmNat .setdecode ops)
  else if name = "digit".toList then asmFits (asmDigitReq ops)
  else if name = "number".toList then asmFits (asmNumberReq ops)
  else if name = ".req".toList then asmRaw ops
  else .error .unknownMnemonic

/-- The request word of one line (30_encoding R71, R72). -/
def assembleLine (line : List Char) : Except AsmError ReqWord := assembleRequest (asmName line) (asmOps line)

/-- The request words of a text, one request a line; lines that hold no request are passed over (30_encoding R71). -/
def assembleLines : List (List Char) → Except AsmError (List ReqWord)
  | [] => .ok []
  | line :: rest =>
    match assembleLine line, assembleLines rest with
    | .ok w, .ok ws => .ok (w :: ws)
    | .error .noRequest, r => r
    | .error e, _ => .error e
    | .ok _, .error e => .error e

/-- The request words of a whole text (30_encoding R71: one per line). -/
def assemble (text : List Char) : Except AsmError (List ReqWord) := assembleLines (asmSplit '\n' text)

end Sys2Proof.Machine
end

