-- ==== Sys2Proof/Machine/Display.lean ====
section
/-! DEFINITION. What the observed cells mean for one digit position (40_register_model R84, R88; 43_font_table R151, R155;
70_reset R195). The chip's own behaviour is out of scope (00_scope R6 (g)); this reads the cells and no step depends on it. -/

namespace Sys2Proof.Machine

/-- How the byte of a digit cell is read: as a Code-B symbol (its ASCII code) or as raw segment bits a to g in bits 6 to 0,
each with the decimal point (40_register_model R88). -/
inductive DigitLook where
  | codeB (symbol : Byte) (point : Bool)
  | segments (lit : BitVec 7) (point : Bool)
deriving DecidableEq, Repr

/-- The digit cells of P0 (`false`) or of P1 (`true`). -/
def Target.cells (t : Target) (second : Bool) : Memory := if second then t.p1 else t.p0

/-- How position `k` of a plane is read; unknown when the cell or the decode mask is. The mask applies to both planes
alike (40_register_model R84, R88). That a 1 enables decoding is general knowledge (93 G7). PRESUMED: a decoded byte's bits
6:4 are ignored; 43_font_table R155 leaves that to general knowledge, and the block never sets them. Log entry 15. -/
def Target.digitLook (p : Params) (t : Target) (second : Bool) (k : Fin 8) : Option DigitLook :=
  match t.reg.read p.addrDecode.toNat, (t.cells second).read k with
  | some mask, some v =>
    some (if decodeEnabled mask k then .codeB (codebSymbol (digitValue v)) (digitPoint v)
      else .segments (v.extractLsb' 0 7) (digitPoint v))
  | _, _ => none

end Sys2Proof.Machine
end

