-- ==== Sys2Proof/Safety.lean ====
section
/-! DEFINITION. The terms claims are stated in: runs of several steps, which states are consistent, which addresses the
block may emit, which responses it may give. -/

namespace Sys2Proof.Machine

/-- `k` steps, stopping at the first refusal. -/
def run : Nat → State → Host.Outcome State Fault Refusal
  | 0, s => .next s
  | k + 1, s =>
    match step s with
    | .next t => run k t
    | .fault f => .fault f
    | .refused r => .refused r

/-- The cells of the target are in canonical form: control cells at addresses of 8 bits outside the digit blocks, digit
cells at indexes 0 to 7 (20_memory R45). -/
def Target.wf (p : Params) (t : Target) : Prop :=
  t.reg.wf ∧ t.p0.wf ∧ t.p1.wf ∧
  (∀ c ∈ t.reg, c.1 < 256 ∧ ∀ b ∈ p.bases, ¬ inBlock b (BitVec.ofNat 8 c.1)) ∧
  (∀ c ∈ t.p0, c.1 < 8) ∧ (∀ c ∈ t.p1, c.1 < 8)

/-- The calls to the Bus Transport are whole brackets: select, one transmission of two bytes, deselect, always on the
instance's own line (60_exceptions R178). -/
def bracketed (line : Nat) : List BusCall → Bool
  | [] => true
  | .assertSelect a :: .transmit _ _ :: .deassertSelect b :: rest => a == line && b == line && bracketed line rest
  | _ => false

/-- A consistent state (10_state R20, R28): nothing is pending and nothing counted in `Idle`; in `Busy` the words sent and
to send are 1 to 8; select is released between steps. -/
structure Consistent (s : State) : Prop where
  selReleased : s.sel = false
  idleEmpty : s.phase = .idle → s.pending = [] ∧ s.sent = 0
  busyBound : s.phase = .busy → 1 ≤ s.sent.toNat + s.pending.length ∧ s.sent.toNat + s.pending.length ≤ 8
  targetWf : s.target.wf s.params
  callsBracketed : bracketed s.params.csId s.calls = true

/-- The addresses the block may emit: the table of 20_memory R46 without `ADDR_NOOP` (R47). -/
def emittable (p : Params) (a : Byte) : Prop :=
  a = p.addrDecode ∨ a = p.addrIntensity ∨ a = p.addrScanLimit ∨ a = p.addrConfig ∨ a = p.addrTest ∨
  inBlock p.baseP0 a ∨ inBlock p.baseP1 a ∨ inBlock p.baseBoth a

/-- The responses that can be given: INVALID_ARGUMENT with count 0, OK with 1 to 8, TRANSPORT_FAILURE with 0 to 7
(30_encoding R66). -/
def legalResponse : Status → BitVec 4 → Prop
  | .invalidArgument, n => n = 0
  | .ok, n => 1 ≤ n.toNat ∧ n.toNat ≤ 8
  | .transportFailure, n => n.toNat ≤ 7

/-- For `k` steps of a `Busy` block no move of the outside touches it: nothing arrives, or a request waits on the port
(log entry 7). -/
def undisturbedFor : Nat → List Input → Prop
  | 0, _ => True
  | _ + 1, [] => True
  | _ + 1, .request _ :: _ => True
  | k + 1, .quiet :: rest => undisturbedFor k rest
  | _ + 1, .requestNow _ :: _ => False
  | _ + 1, .fontQuery _ :: _ => False
  | _ + 1, .reset :: _ => False

/-- The inputs that are left after `k` such steps: each step takes off one `quiet`, and a waiting request stays. -/
def dropQuiets : Nat → List Input → List Input
  | 0, ins => ins
  | k + 1, .quiet :: rest => dropQuiets k rest
  | _ + 1, [] => []
  | _ + 1, .request w :: rest => .request w :: rest
  | _ + 1, .requestNow w :: rest => .requestNow w :: rest
  | _ + 1, .fontQuery c :: rest => .fontQuery c :: rest
  | _ + 1, .reset :: rest => .reset :: rest

/-- A digit request with this plane code writes the plane: P0 (`false`) or P1 (`true`) (40_register_model R80, 20_memory
R45: the both block writes both planes). -/
def writesPlane : PlaneCode → Bool → Bool
  | .p0, second => !second
  | .p1, second => second
  | .both, _ => true
  | .pl3, _ => false

/-- The state after a request with these words was accepted (10_state R28, `Accept`). -/
def accepted (ws : List CmdWord) (s : State) : State := { s with phase := .busy, pending := ws, sent := 0 }

/-- The state after a request was answered with INVALID_ARGUMENT (10_state R28, 60_exceptions R175). -/
def rejected (s : State) : State := { s with trace := s.trace ++ [.respond .invalidArgument 0] }

/-- The calls of one transmission (60_exceptions R178). -/
def bracketOf (line : Nat) (w : CmdWord) : List BusCall :=
  [.assertSelect line, .transmit (cmdAddr w) (cmdData w), .deassertSelect line]

/-- The number of decimal digits of a magnitude (42_decimal_decomposer R133). -/
def decimalDigits (m : Nat) : Nat := if m = 0 then 1 else Nat.log 10 m + 1

/-- The magnitude a row of decimal digits shows, from the digits read so far. -/
def digitsShown : Nat → List (BitVec 4) → Nat
  | acc, [] => acc
  | acc, d :: ds => digitsShown (acc * 10 + d.toNat) ds

/-- The number a decomposed display shows: a leading hyphen is the minus sign (42_decimal_decomposer R134). -/
def numberShown (slots : List (BitVec 4)) : Int :=
  match slots with
  | [] => 0
  | d :: ds => if d = cbHyphen then -(digitsShown 0 ds : Int) else (digitsShown 0 (d :: ds) : Int)

/-- The operations that use `A` (30_encoding R65). -/
abbrev usesA (op : BitVec 4) : Prop := op = 1 ∨ op = 3 ∨ op = 4 ∨ op = 5 ∨ op = 6 ∨ op = 7 ∨ op = 8

/-- The operations that use `PL` and `B` (30_encoding R65). -/
abbrev usesPlB (op : BitVec 4) : Prop := op = 7 ∨ op = 8

/-- `op` is a reserved operation code (30_encoding R62). -/
abbrev reservedOp (op : BitVec 4) : Prop := op.toNat = 0 ∨ 9 ≤ op.toNat

/-- The word with 0 in every field that its operation ignores (30_encoding R65, R71). -/
def clearIgnored (w : ReqWord) : ReqWord :=
  if reqOp w = 7 then packFields (reqOp w) (reqPl w) (reqDp w) false (reqA w) (reqB w)
  else if reqOp w = 8 then packFields (reqOp w) (reqPl w) false false (reqA w) (reqB w)
  else if usesA (reqOp w) then packFields (reqOp w) 0 false false (reqA w) 0
  else packFields (reqOp w) 0 false false 0 0

/-- The `PL`, `DP`, `A` and `B` of an assembled request (30_encoding R71, R72). -/
def fieldsOf : Instr → BitVec 2 × Bool × BitVec 32 × BitVec 32
  | .setblink mode => (0, false, BitVec.ofNat 32 mode, 0)
  | .clear => (0, false, 0, 0)
  | .setdisp mode => (0, false, BitVec.ofNat 32 mode, 0)
  | .setdigits n => (0, false, BitVec.ofNat 32 n, 0)
  | .setint level => (0, false, BitVec.ofNat 32 level, 0)
  | .setdecode mask => (0, false, BitVec.ofNat 32 mask, 0)
  | .digit pl dp index value => (planeBits pl, dp, BitVec.ofNat 32 index, BitVec.ofNat 32 value)
  | .number pl n v => (planeBits pl, false, BitVec.ofNat 32 n, BitVec.ofInt 32 v)
  | .reserved0 => (0, false, 0, 0)
  | .reserved9 => (0, false, 0, 0)
  | .reservedA => (0, false, 0, 0)
  | .reservedB => (0, false, 0, 0)
  | .reservedC => (0, false, 0, 0)
  | .reservedD => (0, false, 0, 0)
  | .reservedE => (0, false, 0, 0)
  | .reservedF => (0, false, 0, 0)

/-- InvalidArgument is due: the table of 60_exceptions R171. -/
def invalidDue (p : Params) : Instr → Prop
  | .setblink mode => mode > 2
  | .clear => False
  | .setdisp mode => mode > 1
  | .setdigits n => n = 0 ∨ n > 8
  | .setint level => level > 15
  | .setdecode mask => mask > decodeMaskLimit p.decodeMaskMax
  | .digit pl _ index value => pl = .pl3 ∨ index > 7 ∨ value > 15
  | .number pl n v => pl = .pl3 ∨ n = 0 ∨ n > 8 ∨ decompose v n = none
  | .reserved0 => True
  | .reserved9 => True
  | .reservedA => True
  | .reservedB => True
  | .reservedC => True
  | .reservedD => True
  | .reservedE => True
  | .reservedF => True

end Sys2Proof.Machine
end

