-- ==== Sys2Proof/Certificates/Slice0/Obligations.lean ====
section
/-! DEFINITION. The statements for the provers. `p` is a parameter record (00_scope R7), `s` and `t` states. Where a
statement is about values of the default parameters it names `defaultParams`. -/

open Sys2Proof Sys2Proof.Machine

/-! ### Reset and the invariants -/

/-- 10_state R20 and 70_reset R190: the four pieces of block state right after reset. -/
def Obligations.ResetLeavesBlockIdle : Prop :=
  State.reset.phase = .idle ∧ State.reset.pending = [] ∧ State.reset.sent = 0 ∧ State.reset.sel = false

/-- The reset state is consistent and the default parameters meet 00_scope R8. (Its target cells are all unknown: the
model's choice for the OPEN `TARGET_RESET`, log entry 5.) -/
def Obligations.ResetIsConsistent : Prop :=
  Consistent State.reset ∧ State.reset.params.wellFormed

/-- Every step keeps the state consistent, from every consistent state, whatever the inputs and the outcomes of the
transmissions are (10_state R20, R28; 60_exceptions R178; 20_memory R45). -/
def Obligations.StepKeepsConsistent : Prop :=
  ∀ s t : State, Consistent s → step s = .next t → Consistent t

/-- Every step keeps this: the words to send and the words handed to the transport name only addresses of the map
(20_memory R47). -/
def Obligations.StepKeepsAddressesMapped : Prop :=
  ∀ s t : State, s.params.wellFormed →
    (∀ w ∈ s.pending, emittable s.params (cmdAddr w)) →
    (∀ w r, Event.xfer w r ∈ s.trace → emittable s.params (cmdAddr w)) →
    step s = .next t →
    (∀ w ∈ t.pending, emittable t.params (cmdAddr w)) ∧
    ∀ w r, Event.xfer w r ∈ t.trace → emittable t.params (cmdAddr w)

/-- No step writes the parameters (10_state R24). -/
def Obligations.StepKeepsParams : Prop :=
  ∀ s t : State, step s = .next t → t.params = s.params

/-! ### Encodings -/

/-- Every well-formed request is read back from its word, with every operand (30_encoding R60, R61, R72). -/
def Obligations.DecodeOfEncode : Prop :=
  ∀ i : Instr, i.wellFormed = true → decode (encode i) = i

/-- Every word decodes to a well-formed request, whose own word is that word with 0 in the ignored fields
(30_encoding R65, R70, R71). -/
def Obligations.EncodeOfDecode : Prop :=
  ∀ w : ReqWord, (decode w).wellFormed = true ∧ encode (decode w) = clearIgnored w

/-- 30_encoding R65: words that agree in `OP` and in the fields its operation uses are one request. -/
def Obligations.IgnoredFieldsChangeNothing : Prop :=
  ∀ w w' : ReqWord, reqOp w = reqOp w' →
    (usesA (reqOp w) → reqA w = reqA w') →
    (usesPlB (reqOp w) → reqPl w = reqPl w' ∧ reqB w = reqB w') →
    (reqOp w = 7 → reqDp w = reqDp w') →
    decode w = decode w' ∧ ∀ s, exec (decode w) s = exec (decode w') s

/-- 30_encoding R72, which the spec marks as derived from R60 and R71: the encoding of an assembled request, and the
rule's three examples. -/
def Obligations.AssembledRequestLayout : Prop :=
  (∀ i : Instr, encode i =
      ((opCode i).setWidth 72 <<< 68) ||| ((fieldsOf i).1.setWidth 72 <<< 66) |||
      ((BitVec.ofBool (fieldsOf i).2.1).setWidth 72 <<< 65) ||| ((fieldsOf i).2.2.1.setWidth 72 <<< 32) |||
      (fieldsOf i).2.2.2.setWidth 72) ∧
  encode (.setint 8) = 0x500000000800000000 ∧
  encode (.digit .p0 true 3 5) = 0x720000000300000005 ∧
  encode (.number .both 2 (-7)) = 0x8800000002FFFFFFF9

/-- Words of every family, written out from 30_encoding R60 and R62, decode to the request they stand for. -/
def Obligations.SpecWordsDecode : Prop :=
  decode 0x100000000200000000 = .setblink 2 ∧
  decode 0x200000000000000000 = .clear ∧
  decode 0x300000000100000000 = .setdisp 1 ∧
  decode 0x400000000400000000 = .setdigits 4 ∧
  decode 0x500000000800000000 = .setint 8 ∧
  decode 0x600000000700000000 = .setdecode 7 ∧
  decode 0x720000000300000005 = .digit .p0 true 3 5 ∧
  decode 0x8800000002FFFFFFF9 = .number .both 2 (-7) ∧
  decode 0x900000000100000001 = .reserved9

/-- 30_encoding R71: lines of the textual syntax and their words; an operand that does not fit is an assembler error. -/
def Obligations.AssemblerExamples : Prop :=
  assembleLine "SETBLINK fast ; blink".toList = .ok 0x100000000200000000 ∧
  assembleLine "clear".toList = .ok 0x200000000000000000 ∧
  assembleLine "SetInt 0x8".toList = .ok 0x500000000800000000 ∧
  assembleLine "DIGIT p0, 3, 5, dp".toList = .ok 0x720000000300000005 ∧
  assembleLine "NUMBER both, 2, -7".toList = .ok 0x8800000002FFFFFFF9 ∧
  assembleLine ".req 0x900000000100000001".toList = .ok 0x900000000100000001 ∧
  assembleLine "SETINT 4294967296".toList = .error .doesNotFit

/-- 30_encoding R71: but for `.req`, an assembled word is that of a defined operation with operands that fit, with 0 in
every ignored field. -/
def Obligations.OnlyReqWritesRawWords : Prop :=
  ∀ (line : List Char) (w : ReqWord), assembleLine line = .ok w → asmName line ≠ ".req".toList →
    ¬ reservedOp (reqOp w) ∧ clearIgnored w = w ∧ ∃ i, i.wellFormed = true ∧ w = encode i

/-! ### Units -/

/-- 40_register_model R80: the address decoder. -/
def Obligations.DigitAddressDecoder : Prop :=
  (∀ (p : Params) (d : Nat), d ≤ 7 →
    resolveDigitAddress p .p0 d = ⟨true, p.baseP0 + BitVec.ofNat 8 d⟩ ∧
    resolveDigitAddress p .p1 d = ⟨true, p.baseP1 + BitVec.ofNat 8 d⟩ ∧
    resolveDigitAddress p .both d = ⟨true, p.baseBoth + BitVec.ofNat 8 d⟩) ∧
  (∀ (p : Params) (b : Byte) (d : Nat), p.wellFormed → b ∈ p.bases → d ≤ 7 →
    (b + BitVec.ofNat 8 d).toNat = b.toNat + d) ∧
  (∀ (p : Params) (pl : PlaneCode) (d : Nat), d > 7 → (resolveDigitAddress p pl d).ok = false) ∧
  (∀ (p : Params) (d : Nat), (resolveDigitAddress p .pl3 d).ok = false) ∧
  resolveDigitAddress defaultParams .p0 3 = ⟨true, 0x23⟩

/-- 40_register_model R81, which the spec marks as derived from R80 and R8: the 24 digit addresses are pairwise distinct,
lie in the three blocks and are no control address. -/
def Obligations.DigitAddressesDistinct : Prop :=
  ∀ (p : Params) (pl pl' : PlaneCode) (d d' : Nat), p.wellFormed → pl ≠ .pl3 → pl' ≠ .pl3 → d ≤ 7 → d' ≤ 7 →
    ((resolveDigitAddress p pl d).addr = (resolveDigitAddress p pl' d').addr → pl = pl' ∧ d = d') ∧
    (∃ b ∈ p.bases, inBlock b (resolveDigitAddress p pl d).addr) ∧
    (resolveDigitAddress p pl d).addr ∉ p.controlAddrs

/-- 40_register_model R82: the configuration packer, bit by bit for all positions that meet 00_scope R8 (3), and its
formula and examples at the defaults. -/
def Obligations.ConfigurationPacker : Prop :=
  (∀ (p : Params) (op rd br be bt : Bool), p.cfgOk →
    (packConfiguration p op rd br be bt).getLsbD p.cfgS = op ∧
    (packConfiguration p op rd br be bt).getLsbD p.cfgB = br ∧
    (packConfiguration p op rd br be bt).getLsbD p.cfgE = be ∧
    (packConfiguration p op rd br be bt).getLsbD p.cfgT = bt ∧
    (packConfiguration p op rd br be bt).getLsbD p.cfgR = rd) ∧
  (∀ (p : Params) (op rd br be bt : Bool) (k : Fin 8), k ∉ p.cfgBits →
    (packConfiguration p op rd br be bt).getLsbD k = false) ∧
  (∀ (p : Params) (op rd br be bt : Bool), (packConfiguration p op rd br be bt).getLsbD 1 = false) ∧
  (∀ op rd br be bt : Bool, packConfiguration defaultParams op rd br be bt =
    (BitVec.ofBool op).setWidth 8 ||| ((BitVec.ofBool br).setWidth 8 <<< 2) ||| ((BitVec.ofBool be).setWidth 8 <<< 3) |||
    ((BitVec.ofBool bt).setWidth 8 <<< 4) ||| ((BitVec.ofBool rd).setWidth 8 <<< 5)) ∧
  packConfiguration defaultParams false false false false false = 0x00 ∧
  packConfiguration defaultParams true true true true true = 0x3D ∧
  packConfiguration defaultParams true false true true false = 0x0D

/-- 42_decimal_decomposer R130: the power-of-ten unit. -/
def Obligations.PowerOfTen : Prop :=
  (∀ e : Nat, e ≤ 9 → ipow10 e = some (10 ^ e) ∧ 10 ^ e < 2 ^ 32) ∧
  (∀ e : Nat, 9 < e → ipow10 e = none) ∧ ipow10 9 = some 0x3B9ACA00

/-- 42_decimal_decomposer R133, whose count in digits the spec marks as derived from R132: exactly which values fit on `n`
slots, said in three ways, and the source's example. -/
def Obligations.DecomposeFitsExactly : Prop :=
  (∀ (v : Int) (n : Nat), 1 ≤ n → n ≤ 8 →
    (decompose v n = none ↔ (0 ≤ v ∧ 10 ^ n ≤ v) ∨ (v < 0 ∧ (n = 1 ∨ 10 ^ (n - 1) ≤ v.natAbs))) ∧
    (decompose v n ≠ none ↔ -(10 ^ (n - 1) - 1) ≤ v ∧ v ≤ 10 ^ n - 1) ∧
    (decompose v n ≠ none ↔ decimalDigits v.natAbs + (if v < 0 then 1 else 0) ≤ n)) ∧
  decompose 12345 4 = none

/-- 42_decimal_decomposer R132: when the value fits, every slot. -/
def Obligations.DecomposeSlots : Prop :=
  ∀ (v : Int) (n : Nat), 1 ≤ n → n ≤ 8 →
    (v.natAbs ≥ 10 ^ (n - (if v < 0 then 1 else 0)) → decompose v n = none) ∧
    (v.natAbs < 10 ^ (n - (if v < 0 then 1 else 0)) →
      ∃ slots, decompose v n = some slots ∧ slots.length = n ∧
        ∀ i, i < n → slots[i]? = some
          (if v < 0 ∧ i = 0 then 0xA else BitVec.ofNat 4 (v.natAbs / 10 ^ (n - 1 - i) % 10)))

/-- 42_decimal_decomposer R131, R134, R135: the slots read back as the number, so no value is ever truncated. -/
def Obligations.DecomposedNumberReadsBack : Prop :=
  ∀ (v : Int) (n : Nat) (slots : List (BitVec 4)), 1 ≤ n → n ≤ 8 → decompose v n = some slots →
    numberShown slots = v

/-- 43_font_table R150: hits give `{0, FONT7[c]}`, every other code is a miss with 0x00. -/
def Obligations.FontLookupTable : Prop :=
  ∀ (p : Params) (c : Byte),
    (0x30 ≤ c.toNat ∧ c.toNat ≤ 0x39 →
      fontLookup p c = ⟨c, true, ((p.font7[c.toNat - 0x30]?).getD 0).setWidth 8⟩) ∧
    (0x41 ≤ c.toNat ∧ c.toNat ≤ 0x5A →
      fontLookup p c = ⟨c, true, ((p.font7[c.toNat - 0x41 + 10]?).getD 0).setWidth 8⟩) ∧
    (¬ (0x30 ≤ c.toNat ∧ c.toNat ≤ 0x39) → ¬ (0x41 ≤ c.toNat ∧ c.toNat ≤ 0x5A) →
      fontLookup p c = ⟨c, false, 0x00⟩) ∧
    (fontLookup p c).pat.getLsbD 7 = false

/-- 43_font_table R154: the Code-B index table. -/
def Obligations.CodeBIndexTable : Prop :=
  (∀ d : Nat, d ≤ 9 → codebIndex (BitVec.ofNat 8 (0x30 + d)) = ⟨true, BitVec.ofNat 4 d⟩) ∧
  codebIndex 0x2D = ⟨true, 0xA⟩ ∧ codebIndex 0x45 = ⟨true, 0xB⟩ ∧ codebIndex 0x48 = ⟨true, 0xC⟩ ∧
  codebIndex 0x4C = ⟨true, 0xD⟩ ∧ codebIndex 0x50 = ⟨true, 0xE⟩ ∧ codebIndex 0x20 = ⟨true, 0xF⟩ ∧
  ∀ c : Byte, ¬ (0x30 ≤ c.toNat ∧ c.toNat ≤ 0x39) → c ∉ [0x2D, 0x45, 0x48, 0x4C, 0x50, (0x20 : Byte)] →
    codebIndex c = ⟨false, 0⟩

/-- 40_register_model R84 to R87, 43_font_table R155: what the bytes say that the requests write. The scan-limit byte of
SETDIGITS asks for `n` digits, positions 0 to `n-1`; the intensity byte holds the level in bits 3:0 and 0 above; the
display-test byte names the mode; the decode byte enables the positions of the mask; the symbol of each Code-B index has
that index. (Polarity and prefix reading of the masks are the spec's general knowledge, 93 G7 and G9.) -/
def Obligations.WrittenBytesMean : Prop :=
  (∀ (p : Params) (n : Nat), 1 ≤ n → n ≤ 8 → ∃ w, encodeRequest p (.setdigits n) = .words [w] ∧
    scanLimitDigits (cmdData w) = n ∧ ∀ k : Fin 8, positionDriven (cmdData w) k = true ↔ k.val < n) ∧
  (∀ (p : Params) (level : Nat), level ≤ 15 → ∃ w, encodeRequest p (.setint level) = .words [w] ∧
    (intensityLevel (cmdData w)).toNat = level ∧ (cmdData w).extractLsb' 4 4 = 0) ∧
  (∀ p : Params, (∃ w, encodeRequest p (.setdisp 0) = .words [w] ∧ displayMode (cmdData w) = some .test) ∧
    ∃ w, encodeRequest p (.setdisp 1) = .words [w] ∧ displayMode (cmdData w) = some .normal) ∧
  (∀ (p : Params) (mask : Nat), mask ≤ decodeMaskLimit p.decodeMaskMax →
    ∃ w, encodeRequest p (.setdecode mask) = .words [w] ∧
      ∀ k : Fin 8, decodeEnabled (cmdData w) k = mask.testBit k) ∧
  ∀ idx : BitVec 4, codebIndex (codebSymbol idx) = ⟨true, idx⟩

/-- 30_encoding R66: the fields of the response word. -/
def Obligations.ResponseWordLayout : Prop :=
  ∀ (st : Status) (n : BitVec 4),
    (respWord st n).extractLsb' 6 2 = 0 ∧ (respWord st n).extractLsb' 2 4 = n ∧
    (respWord st n).extractLsb' 0 2 = (match st with | .ok => 0 | .invalidArgument => 1 | .transportFailure => 2)

/-- 20_memory R42: the address byte goes first and the data byte second, each most significant bit first. -/
def Obligations.BitOrderOnTheWire : Prop :=
  ∀ w : CmdWord,
    wireBits w = [w.getLsbD 15, w.getLsbD 14, w.getLsbD 13, w.getLsbD 12, w.getLsbD 11, w.getLsbD 10, w.getLsbD 9,
      w.getLsbD 8, w.getLsbD 7, w.getLsbD 6, w.getLsbD 5, w.getLsbD 4, w.getLsbD 3, w.getLsbD 2, w.getLsbD 1, w.getLsbD 0] ∧
    wireBits w = ((List.range 8).map fun k => (cmdAddr w).getLsbD (7 - k)) ++
      (List.range 8).map fun k => (cmdData w).getLsbD (7 - k)

/-! ### The requests: what each does when it is presented to an `Idle` block -/

/-- 41_command_encoder R102: SETBLINK. -/
def Obligations.SetblinkRequest : Prop :=
  (∀ s : State, s.phase = .idle →
    exec (.setblink 0) s = .next (accepted
      [cmd s.params.addrConfig (packConfiguration s.params s.params.blinkOpMode false false false false)] s) ∧
    exec (.setblink 1) s = .next (accepted
      [cmd s.params.addrConfig (packConfiguration s.params s.params.blinkOpMode false false true false)] s) ∧
    exec (.setblink 2) s = .next (accepted
      [cmd s.params.addrConfig (packConfiguration s.params s.params.blinkOpMode false true true false)] s) ∧
    ∀ mode, mode > 2 → exec (.setblink mode) s = .next (rejected s)) ∧
  encodeRequest defaultParams (.setblink 2) = .words [0x040D] ∧
  encodeRequest defaultParams (.setblink 1) = .words [0x0409] ∧
  encodeRequest defaultParams (.setblink 0) = .words [0x0401]

/-- 41_command_encoder R103: CLEAR. -/
def Obligations.ClearRequest : Prop :=
  (∀ s : State, s.phase = .idle →
    exec .clear s = .next (accepted
      [cmd s.params.addrConfig (packConfiguration s.params false true false false false)] s)) ∧
  encodeRequest defaultParams .clear = .words [0x0420]

/-- 41_command_encoder R104: SETDISP. -/
def Obligations.SetdispRequest : Prop :=
  (∀ s : State, s.phase = .idle →
    exec (.setdisp 0) s = .next (accepted [cmd s.params.addrTest 0x00] s) ∧
    exec (.setdisp 1) s = .next (accepted [cmd s.params.addrTest 0x01] s) ∧
    ∀ mode, mode > 1 → exec (.setdisp mode) s = .next (rejected s)) ∧
  encodeRequest defaultParams (.setdisp 1) = .words [0x0701] ∧
  encodeRequest defaultParams (.setdisp 0) = .words [0x0700]

/-- 41_command_encoder R105: SETDIGITS. -/
def Obligations.SetdigitsRequest : Prop :=
  (∀ (s : State) (n : Nat), s.phase = .idle →
    exec (.setdigits n) s = .next (if 1 ≤ n ∧ n ≤ 8
      then accepted [cmd s.params.addrScanLimit (BitVec.ofNat 8 (n - 1))] s else rejected s)) ∧
  encodeRequest defaultParams (.setdigits 4) = .words [0x0303] ∧
  encodeRequest defaultParams (.setdigits 1) = .words [0x0300] ∧
  encodeRequest defaultParams (.setdigits 8) = .words [0x0307]

/-- 41_command_encoder R106: SETINT. -/
def Obligations.SetintRequest : Prop :=
  (∀ (s : State) (level : Nat), s.phase = .idle →
    exec (.setint level) s = .next (if level ≤ 15
      then accepted [cmd s.params.addrIntensity (BitVec.ofNat 8 level)] s else rejected s)) ∧
  encodeRequest defaultParams (.setint 8) = .words [0x0208] ∧
  encodeRequest defaultParams (.setint 0) = .words [0x0200] ∧
  encodeRequest defaultParams (.setint 15) = .words [0x020F]

/-- 41_command_encoder R107: SETDECODE, for both values of `DECODE_MASK_MAX`. -/
def Obligations.SetdecodeRequest : Prop :=
  (∀ (s : State) (mask : Nat), s.phase = .idle → s.params.decodeMaskMax = .max07 →
    exec (.setdecode mask) s = .next (if mask ≤ 0x07
      then accepted [cmd s.params.addrDecode (BitVec.ofNat 8 mask)] s else rejected s)) ∧
  (∀ (s : State) (mask : Nat), s.phase = .idle → s.params.decodeMaskMax = .maxFF →
    exec (.setdecode mask) s = .next (if mask ≤ 0xFF
      then accepted [cmd s.params.addrDecode (BitVec.ofNat 8 mask)] s else rejected s)) ∧
  defaultParams.decodeMaskMax = .max07 ∧
  encodeRequest defaultParams (.setdecode 7) = .words [0x0107] ∧
  encodeRequest defaultParams (.setdecode 8) = .invalidArgument

/-- 41_command_encoder R108: DIGIT. -/
def Obligations.DigitRequest : Prop :=
  (∀ (s : State) (pl : PlaneCode) (base : Byte) (dp : Bool) (index value : Nat), s.phase = .idle →
    planeBase s.params pl = some base → index ≤ 7 → value ≤ 15 →
    exec (.digit pl dp index value) s = .next (accepted
      [cmd (base + BitVec.ofNat 8 index) (BitVec.ofNat 8 ((if dp then 0x80 else 0) + value))] s)) ∧
  (∀ (s : State) (pl : PlaneCode) (dp : Bool) (index value : Nat), s.phase = .idle →
    (pl = .pl3 ∨ index > 7 ∨ value > 15) → exec (.digit pl dp index value) s = .next (rejected s)) ∧
  encodeRequest defaultParams (.digit .p0 true 3 5) = .words [0x2385] ∧
  encodeRequest defaultParams (.digit .p0 false 3 0x85) = .invalidArgument

/-- 41_command_encoder R109: NUMBER, word by word in slot order, for both values of `DIGIT_ORDER`. -/
def Obligations.NumberRequest : Prop :=
  (∀ (s : State) (pl : PlaneCode) (base : Byte) (n : Nat) (v : Int) (slots : List (BitVec 4)), s.phase = .idle →
    planeBase s.params pl = some base → 1 ≤ n → n ≤ 8 → decompose v n = some slots →
    exec (.number pl n v) s = .next (accepted ((List.range n).map fun i =>
      cmd (base + BitVec.ofNat 8 (match s.params.digitOrder with | .lsdAt0 => n - 1 - i | .msdAt0 => i))
        ((slots.getD i 0).setWidth 8)) s)) ∧
  (∀ (s : State) (pl : PlaneCode) (n : Nat) (v : Int), s.phase = .idle →
    (pl = .pl3 ∨ n < 1 ∨ n > 8 ∨ decompose v n = none) → exec (.number pl n v) s = .next (rejected s)) ∧
  encodeRequest defaultParams (.number .p0 4 1234) = .words [0x2301, 0x2202, 0x2103, 0x2004] ∧
  encodeRequest defaultParams (.number .both 2 (-7)) = .words [0x610A, 0x6007] ∧
  encodeRequest defaultParams (.number .p1 3 7) = .words [0x4200, 0x4100, 0x4007] ∧
  encodeRequest defaultParams (.number .p0 4 12345) = .invalidArgument

/-- 30_encoding R68: every reserved operation code, in every word that holds it, is answered with INVALID_ARGUMENT,
count 0, and sends nothing. -/
def Obligations.ReservedRequests : Prop :=
  ∀ s : State, s.phase = .idle →
    (∀ w : ReqWord, reservedOp (reqOp w) → exec (decode w) s = .next (rejected s)) ∧
    exec .reserved0 s = .next (rejected s) ∧ exec .reserved9 s = .next (rejected s) ∧
    exec .reservedA s = .next (rejected s) ∧ exec .reservedB s = .next (rejected s) ∧
    exec .reservedC s = .next (rejected s) ∧ exec .reservedD s = .next (rejected s) ∧
    exec .reservedE s = .next (rejected s) ∧ exec .reservedF s = .next (rejected s)

/-! ### The requests: what holds of all of them -/

/-- 60_exceptions R171, which the spec marks as derived from R102 to R109: InvalidArgument exactly when the table says;
otherwise the request is accepted. -/
def Obligations.InvalidArgumentExactly : Prop :=
  ∀ (i : Instr) (s : State), s.phase = .idle →
    (invalidDue s.params i → exec i s = .next (rejected s)) ∧
    (¬ invalidDue s.params i → ∃ ws, ws ≠ [] ∧ exec i s = .next (accepted ws s))

/-- 41_command_encoder R101: every word gives InvalidArgument or a list of the stated length, and the result depends on
the request and the parameters alone. -/
def Obligations.EncodeWordCounts : Prop :=
  (∀ (p : Params) (w : ReqWord), encodeRequest p (decode w) = .invalidArgument ∨
    ∃ ws, encodeRequest p (decode w) = .words ws ∧ 1 ≤ ws.length ∧ ws.length ≤ 8 ∧
      ws.length = if reqOp w = 8 then (reqA w).toNat else 1) ∧
  ∀ (s : State) (i : Instr), s.phase = .idle →
    exec i s = .next (match encodeRequest s.params i with | .invalidArgument => rejected s | .words ws => accepted ws s)

/-- 20_memory R47, which the spec marks as derived from R102 to R109: only mapped addresses are
emitted, never the no-op register, and at the defaults neither 0x05, 0x06 nor anything above the digit blocks. -/
def Obligations.EmittedAddresses : Prop :=
  ∀ (s t : State) (i : Instr) (w : CmdWord), s.params.wellFormed → exec i s = .next t → t.phase = .busy → w ∈ t.pending →
    emittable s.params (cmdAddr w) ∧ cmdAddr w ≠ s.params.addrNoop ∧
    (s.params = defaultParams → cmdAddr w ≠ 0x05 ∧ cmdAddr w ≠ 0x06 ∧ (cmdAddr w).toNat ≤ 0x67)

/-- 40_register_model R82, R83: in every configuration word the must-be-zero bit is 0, and blink-timing reset is 0. -/
def Obligations.ConfigurationWordBits : Prop :=
  ∀ (s t : State) (i : Instr) (w : CmdWord), s.params.wellFormed → exec i s = .next t → t.phase = .busy → w ∈ t.pending →
    cmdAddr w = s.params.addrConfig →
    (cmdData w).getLsbD 1 = false ∧ (cmdData w).getLsbD s.params.cfgT = false ∧
    ((cmdData w).getLsbD s.params.cfgR = true ↔ i = .clear)

/-- 40_register_model R88: bits 6:4 of every digit byte are 0, and NUMBER never sets the decimal point. -/
def Obligations.DigitDataBytes : Prop :=
  (∀ (s t : State) (pl : PlaneCode) (dp : Bool) (index value : Nat) (w : CmdWord),
    exec (.digit pl dp index value) s = .next t → t.phase = .busy → w ∈ t.pending →
    (cmdData w).extractLsb' 4 3 = 0 ∧ digitPoint (cmdData w) = dp ∧ (digitValue (cmdData w)).toNat = value) ∧
  ∀ (s t : State) (pl : PlaneCode) (n : Nat) (v : Int) (w : CmdWord),
    exec (.number pl n v) s = .next t → t.phase = .busy → w ∈ t.pending →
    (cmdData w).extractLsb' 4 3 = 0 ∧ digitPoint (cmdData w) = false

/-- 10_state R29: `ready` is phase `Idle`, and while `Busy` the model has no move for a request. -/
def Obligations.BusyHasNoMoveForRequests : Prop :=
  (∀ s : State, ready s = true ↔ s.phase = .idle) ∧
  ∀ (s : State) (i : Instr), s.phase = .busy → exec i s = .refused .requestWhileBusy

/-- The frame of every request (10_state R28, R25; 60_exceptions R175): taking a request changes no target cell, no
parameter, no select line, no bus call, no font answer and no input or outcome still to come. A rejected one adds one
response and nothing else, an accepted one sets `phase`, `pending` and `sent` and nothing else. -/
def Obligations.RequestFrame : Prop :=
  ∀ (i : Instr) (s t : State), exec i s = .next t →
    t.sel = s.sel ∧ t.params = s.params ∧ t.calls = s.calls ∧ t.fontResults = s.fontResults ∧
    t.inputs = s.inputs ∧ t.draws = s.draws ∧ t.drawCount = s.drawCount ∧
    (∀ a, t.target.reg.read a = s.target.reg.read a) ∧
    (∀ k, t.target.p0.read k = s.target.p0.read k) ∧ (∀ k, t.target.p1.read k = s.target.p1.read k) ∧
    ((t.phase = .idle ∧ t.pending = s.pending ∧ t.sent = s.sent ∧ t.trace = s.trace ++ [.respond .invalidArgument 0]) ∨
      (t.phase = .busy ∧ t.sent = 0 ∧ t.trace = s.trace))

/-! ### The steps of the block -/

/-- A request due at an `Idle` block is decoded and run, and so is one presented without waiting in any phase; the step
takes it off the list of inputs and adds nothing else (10_state R28, R29). The list of inputs, and what `withFetchWord` does
(it makes the block `Idle` and drops a request in progress), are the model's choice, log entry 7. -/
def Obligations.StepRunsDecodedRequest : Prop :=
  (∀ (s : State) (w : ReqWord) (rest : List Input), s.phase = .idle → s.inputs = .request w :: rest →
    step s = exec (decode w) { s with inputs := rest }) ∧
  (∀ (s : State) (w : ReqWord) (rest : List Input), s.inputs = .requestNow w :: rest →
    step s = exec (decode w) { s with inputs := rest }) ∧
  ∀ (s : State) (nbits w : Nat), step (s.withFetchWord nbits w) =
    exec (decode (BitVec.ofNat 72 w)) { s with phase := .idle, pending := [], sent := 0 }

/-- The model's choice, log entry 7: a waiting request stays at the head of the inputs while the block is `Busy`, and the
block makes the step it would make without it. (10_state R29 and 70_reset R198 only forbid presenting it in `Busy`.) -/
def Obligations.WaitingRequestIsHeld : Prop :=
  ∀ (s : State) (w : ReqWord) (rest : List Input), s.phase = .busy → s.inputs = .request w :: rest →
    ∃ t u, step s = .next t ∧ step { s with inputs := [] } = .next u ∧ t = { u with inputs := s.inputs }

/-- 10_state R28, Send-ok: the next word is handed to the transport in one bracket and its outcome is ok. The outcome of a
transmission is the next one listed, or past the list a free draw, of which nothing is said (93 U9, log entry 8). That a
`quiet` goes off the inputs and a waiting request stays is log entry 7, here and in the two statements below. -/
def Obligations.SendOkStep : Prop :=
  (∀ (s : State) (r : XferResult) (more : List XferResult), s.draws = r :: more → nextOutcome s = r) ∧
  (∀ s : State, s.draws = [] → nextOutcome s = Config.freeXfer s.drawCount) ∧
  ∀ (s : State) (w : CmdWord) (rest : List CmdWord), undisturbedFor 1 s.inputs → s.phase = .busy →
    s.pending = w :: rest → nextOutcome s = .ok →
    step s = .next { s with
      inputs := dropQuiets 1 s.inputs
      pending := rest
      sent := s.sent + 1
      sel := false
      target := s.target.applyXfer s.params w .ok
      trace := s.trace ++ [.xfer w .ok]
      calls := s.calls ++ bracketOf s.params.csId w
      draws := s.draws.tail
      drawCount := if s.draws = [] then s.drawCount + 1 else s.drawCount }

/-- 10_state R28, Send-fail: the request ends with TRANSPORT_FAILURE and the count of the words sent before; every
target cell is unknown (20_memory R45, 60_exceptions R175, R176). -/
def Obligations.SendFailStep : Prop :=
  ∀ (s : State) (w : CmdWord) (rest : List CmdWord), undisturbedFor 1 s.inputs → s.phase = .busy →
    s.pending = w :: rest → nextOutcome s = .fail →
    step s = .next { s with
      inputs := dropQuiets 1 s.inputs
      phase := .idle
      pending := []
      sent := 0
      sel := false
      target := Target.unknown
      trace := s.trace ++ [.xfer w .fail, .respond .transportFailure s.sent]
      calls := s.calls ++ bracketOf s.params.csId w
      draws := s.draws.tail
      drawCount := if s.draws = [] then s.drawCount + 1 else s.drawCount }

/-- 10_state R28, Complete. -/
def Obligations.CompleteStep : Prop :=
  ∀ s : State, undisturbedFor 1 s.inputs → s.phase = .busy → s.pending = [] →
    step s = .next { s with
      inputs := dropQuiets 1 s.inputs
      phase := .idle
      sent := 0
      trace := s.trace ++ [.respond .ok s.sent] }

/-- 70_reset R192: a reset while `Busy`. No response is recorded and nothing more is sent. -/
def Obligations.ResetWhileBusy : Prop :=
  ∀ (s : State) (rest : List Input), s.phase = .busy → s.inputs = .reset :: rest →
    step s = .next { s with
      phase := .idle, pending := [], sent := 0, sel := false, target := Target.unknown, inputs := rest }

/-- A reset while `Idle` gives the block's state its reset values (70_reset R190) and keeps the observation of the target:
the last is the model's choice, log entry 9. -/
def Obligations.ResetWhileIdle : Prop :=
  ∀ (s : State) (rest : List Input), s.phase = .idle → s.inputs = .reset :: rest →
    step s = .next { s with pending := [], sent := 0, sel := false, inputs := rest }

/-- 43_font_table R153: a query of the font port gives its answer in either phase and changes nothing else. -/
def Obligations.FontQueryChangesNothing : Prop :=
  ∀ (s : State) (c : Byte) (rest : List Input), s.inputs = .fontQuery c :: rest →
    step s = .next { s with inputs := rest, fontResults := s.fontResults ++ [fontLookup s.params c] }

/-- An `Idle` block with nothing presented does not change: the model's choice, log entry 7. -/
def Obligations.IdleBlockWaits : Prop :=
  (∀ s : State, s.phase = .idle → s.inputs = [] → step s = .next s) ∧
  ∀ (s : State) (rest : List Input), s.phase = .idle → s.inputs = .quiet :: rest →
    step s = .next { s with inputs := rest }

/-- 10_state R31, which the spec marks as derived from R28 and R101: from `Busy` the block is `Idle`
within 9 of its own steps, whatever the outcomes are. -/
def Obligations.IdleWithinNineSteps : Prop :=
  ∀ s : State, Consistent s → s.phase = .busy → undisturbedFor 9 s.inputs →
    ∃ k t, k ≤ 9 ∧ run k s = .next t ∧ t.phase = .idle

/-- 41_command_encoder R100, 20_memory R50, R51: a request whose transmissions all succeed sends its words in order, each
in a bracket of its own, and is answered OK with their number. -/
def Obligations.RequestRunsToOk : Prop :=
  ∀ (s : State) (w : ReqWord) (rest : List Input) (ws : List CmdWord) (more : List XferResult), s.phase = .idle →
    s.inputs = .request w :: rest → undisturbedFor (ws.length + 1) rest →
    encodeRequest s.params (decode w) = .words ws → s.draws = List.replicate ws.length .ok ++ more →
    run (ws.length + 2) s = .next { s with
      phase := .idle
      pending := []
      sent := 0
      sel := false
      inputs := dropQuiets (ws.length + 1) rest
      draws := more
      target := ws.foldl (fun t u => t.applyXfer s.params u .ok) s.target
      trace := s.trace ++ ws.map (fun u => .xfer u .ok) ++ [.respond .ok (BitVec.ofNat 4 ws.length)]
      calls := s.calls ++ ws.flatMap (bracketOf s.params.csId) }

/-- 41_command_encoder R100, R110; 60_exceptions R174, R175: a request whose transmission `k` (from 0) fails stops there:
the words before it were sent, the later ones are not, and COUNT is `k`. -/
def Obligations.RequestStopsAtFailure : Prop :=
  ∀ (s : State) (w : ReqWord) (rest : List Input) (ws : List CmdWord) (k : Nat) (bad : CmdWord) (more : List XferResult),
    s.phase = .idle → s.inputs = .request w :: rest → undisturbedFor (k + 1) rest →
    encodeRequest s.params (decode w) = .words ws → ws[k]? = some bad →
    s.draws = List.replicate k .ok ++ .fail :: more →
    run (k + 2) s = .next { s with
      phase := .idle
      pending := []
      sent := 0
      sel := false
      inputs := dropQuiets (k + 1) rest
      draws := more
      target := Target.unknown
      trace := s.trace ++ (ws.take k).map (fun u => .xfer u .ok) ++
        [.xfer bad .fail, .respond .transportFailure (BitVec.ofNat 4 k)]
      calls := s.calls ++ (ws.take (k + 1)).flatMap (bracketOf s.params.csId) }

/-- 30_encoding R66: a step records at most one response, and only a legal one: INVALID_ARGUMENT with count 0, OK with 1
to 8, TRANSPORT_FAILURE with 0 to 7. -/
def Obligations.ResponsesAreLegal : Prop :=
  ∀ s t : State, Consistent s → step s = .next t →
    ∃ es, t.trace = s.trace ++ es ∧ (∀ st n, Event.respond st n ∈ es → legalResponse st n) ∧
      (es = [] ∨ (∃ w, es = [.xfer w .ok]) ∨ (∃ st n, es = [.respond st n]) ∨
        ∃ w n, es = [.xfer w .fail, .respond .transportFailure n])

/-- 20_memory R45, 10_state R30: but for a reset while `Busy`, the observation of the target is a function of the recorded
events alone. -/
def Obligations.TargetFollowsTrace : Prop :=
  ∀ s t : State, step s = .next t → ¬ (s.phase = .busy ∧ ∃ rest, s.inputs = .reset :: rest) →
    ∃ es, t.trace = s.trace ++ es ∧ t.target = s.target.observe s.params es

/-- 20_memory R45: which cells one transmission changes, read cell by cell. A word to the both block writes both planes, a
configuration word with reset-data 1 makes the digit cells unknown, a failure makes every cell unknown. -/
def Obligations.TransmissionCells : Prop :=
  ∀ (p : Params) (t : Target) (w : CmdWord), p.wellFormed →
    (∀ k, k ≤ 7 → (t.applyXfer p w .ok).p0.read k =
      if resetsData p w then none
      else if (cmdAddr w).toNat = p.baseP0.toNat + k ∨ (cmdAddr w).toNat = p.baseBoth.toNat + k then some (cmdData w)
      else t.p0.read k) ∧
    (∀ k, k ≤ 7 → (t.applyXfer p w .ok).p1.read k =
      if resetsData p w then none
      else if (cmdAddr w).toNat = p.baseP1.toNat + k ∨ (cmdAddr w).toNat = p.baseBoth.toNat + k then some (cmdData w)
      else t.p1.read k) ∧
    (∀ a, (t.applyXfer p w .ok).reg.read a =
      if a = (cmdAddr w).toNat ∧ ∀ b ∈ p.bases, ¬ inBlock b (cmdAddr w) then some (cmdData w) else t.reg.read a) ∧
    (∀ k, (t.applyXfer p w .fail).p0.read k = none ∧ (t.applyXfer p w .fail).p1.read k = none ∧
      (t.applyXfer p w .fail).reg.read k = none)

/-- 20_memory R44: sending a word twice leaves the cells of the observation as sending it once does. -/
def Obligations.RepeatedWordIsIdempotent : Prop :=
  ∀ (p : Params) (t : Target) (w : CmdWord), t.wf p →
    (t.applyXfer p w .ok).applyXfer p w .ok = t.applyXfer p w .ok

/-- 60_exceptions R178, 20_memory R44: a step calls the transport not at all and records no transmission, or it calls it
for exactly one whole bracket, on the instance's own line, and records exactly that one transmission. -/
def Obligations.OneBracketPerStep : Prop :=
  ∀ s t : State, step s = .next t →
    (t.calls = s.calls ∧ ∃ es, t.trace = s.trace ++ es ∧ ∀ u q, Event.xfer u q ∉ es) ∨
    ∃ w r es, t.calls = s.calls ++ bracketOf s.params.csId w ∧ t.sel = false ∧ t.trace = s.trace ++ .xfer w r :: es ∧
      ∀ u q, Event.xfer u q ∉ es

/-- 70_reset R196: the last configuration word sent decides every field, whatever the cell held: after CLEAR operation
mode and blink enable are 0, after SETBLINK operation mode is `BLINK_OP_MODE` again and reset data 0. The must-be-zero bit
and every bit that no field names are 0 (40_register_model R82, R83). -/
def Obligations.ConfigurationRewrittenWhole : Prop :=
  ∀ (p : Params) (t : Target), p.wellFormed →
    (∃ w, encodeRequest p .clear = .words [w] ∧ ∃ v, (t.applyXfer p w .ok).reg.read p.addrConfig.toNat = some v ∧
      configFields p v = ⟨false, false, false, false, true⟩ ∧ ∀ k : Fin 8, k ∉ p.cfgBits → v.getLsbD k = false) ∧
    (∀ mode be br, blinkFields mode = some (be, br) →
      ∃ w, encodeRequest p (.setblink mode) = .words [w] ∧
        ∃ v, (t.applyXfer p w .ok).reg.read p.addrConfig.toNat = some v ∧
          configFields p v = ⟨p.blinkOpMode, br, be, false, false⟩ ∧ ∀ k : Fin 8, k ∉ p.cfgBits → v.getLsbD k = false)

/-- 60_exceptions R172, 10_state R29: the block is never stuck. A step stops only when a request is presented without
waiting while the block is `Busy`. -/
def Obligations.StepsStopOnlyOnBreach : Prop :=
  ∀ s : State, (∃ t, step s = .next t) ↔ ¬ (s.phase = .busy ∧ ∃ w rest, s.inputs = .requestNow w :: rest)

/-- 70_reset R195, 40_register_model R84, R88: after an accepted SETDECODE at `DECODE_MASK_MAX` = 0x07, positions 3 and
above of either plane read as raw segment bits; where the mask enables a position, DIGIT gives its value's Code-B symbol
there, on the plane it names or on both. (That a mask bit of 1 enables decoding is the spec's general knowledge, 93 G7, and
the symbols of Code-B 0xA to 0xF are G12; log entry 15.) -/
def Obligations.DecodeCoverage : Prop :=
  (∀ (p : Params) (t : Target) (mask : Nat) (w : CmdWord) (second : Bool) (k : Fin 8), p.wellFormed →
    p.decodeMaskMax = .max07 → encodeRequest p (.setdecode mask) = .words [w] → 3 ≤ k.val →
    (t.applyXfer p w .ok).digitLook p second k =
      ((t.cells second).read k).map fun v => .segments (v.extractLsb' 0 7) (digitPoint v)) ∧
  ∀ (p : Params) (t : Target) (pl : PlaneCode) (second : Bool) (mask value : Nat) (dp : Bool) (w u : CmdWord) (k : Fin 8),
    p.wellFormed → writesPlane pl second = true → encodeRequest p (.setdecode mask) = .words [w] →
    encodeRequest p (.digit pl dp k value) = .words [u] → mask.testBit k = true →
    ((t.applyXfer p w .ok).applyXfer p u .ok).digitLook p second k =
      some (.codeB (codebSymbol (BitVec.ofNat 4 value)) dp)
end

