-- ==== Sys2Proof/Laws/Decimal.lean ====
section
/-! SUPPORT. The power-of-ten unit and the decomposer, each by one equation. -/

namespace Sys2Proof.Machine

/-- `ipow10` inside its domain. -/
theorem ipow10_of_le {e : Nat} (h : e ≤ 9) : ipow10 e = some (10 ^ e) := by
  interval_cases e <;> rfl

/-- `ipow10` outside its domain. -/
theorem ipow10_of_gt {e : Nat} (h : 9 < e) : ipow10 e = none := by
  simp [ipow10, Nat.not_le.2 h]

/-- The slots left for the magnitude, by sign. -/
theorem magnitudeSlots_le (v : Int) (n : Nat) : magnitudeSlots v n ≤ n := by
  unfold magnitudeSlots; split <;> omega

/-- Up to ten digits are always given. -/
theorem digitSlots_isSome (m : Nat) {e : Nat} (h : e ≤ 10) : ∃ ds, digitSlots m e = some ds := by
  induction e with
  | zero => exact ⟨[], rfl⟩
  | succ e ih =>
    obtain ⟨ds, hds⟩ := ih (by omega)
    exact ⟨_, by rw [digitSlots, ipow10_of_le (by omega), hds]⟩

/-- Taking the first digit off a list of digits. -/
theorem digitSlots_succ {m e : Nat} {ds : List (BitVec 4)} (h : digitSlots m (e + 1) = some ds) :
    ∃ rest, e ≤ 9 ∧ digitSlots m e = some rest ∧ ds = BitVec.ofNat 4 (m / 10 ^ e % 10) :: rest := by
  rw [digitSlots] at h
  by_cases he : e ≤ 9
  · rw [ipow10_of_le he] at h
    cases hr : digitSlots m e with
    | none => simp [hr] at h
    | some rest => exact ⟨rest, he, rfl, by simpa [hr] using h.symm⟩
  · rw [ipow10_of_gt (by omega)] at h
    simp at h

/-- There are as many digits as asked for. -/
theorem digitSlots_length {m e : Nat} {ds : List (BitVec 4)} (h : digitSlots m e = some ds) : ds.length = e := by
  induction e generalizing ds with
  | zero => simp [digitSlots] at h; simp [← h]
  | succ e ih =>
    obtain ⟨rest, -, hr, rfl⟩ := digitSlots_succ h
    simp [ih hr]

/-- Digit `i` from the left. -/
theorem digitSlots_getElem {m e : Nat} {ds : List (BitVec 4)} (h : digitSlots m e = some ds) {i : Nat} (hi : i < e) :
    ds[i]? = some (BitVec.ofNat 4 (m / 10 ^ (e - 1 - i) % 10)) := by
  induction e generalizing ds i with
  | zero => omega
  | succ e ih =>
    obtain ⟨rest, -, hr, rfl⟩ := digitSlots_succ h
    cases i with
    | zero => simp
    | succ i =>
      have : e + 1 - 1 - (i + 1) = e - 1 - i := by omega
      rw [List.getElem?_cons_succ, ih hr (by omega), this]

/-- The decomposer on the slot counts it is used with. -/
theorem decompose_eq (v : Int) {n : Nat} (hn : n ≤ 9) : decompose v n =
    if v.natAbs ≥ 10 ^ magnitudeSlots v n then none
    else if v < 0 then (digitSlots v.natAbs (magnitudeSlots v n)).map (cbHyphen :: ·)
    else digitSlots v.natAbs (magnitudeSlots v n) := by
  rw [decompose, ipow10_of_le ((magnitudeSlots_le v n).trans hn)]

/-- A decomposition has as many slots as asked for. -/
theorem decompose_length {v : Int} {n : Nat} {slots : List (BitVec 4)} (h1 : 1 ≤ n) (h9 : n ≤ 9)
    (h : decompose v n = some slots) : slots.length = n := by
  rw [decompose_eq v h9] at h
  split at h
  · simp at h
  · split at h
    · next hv =>
      simp only [Option.map_eq_some_iff] at h
      obtain ⟨ds, hds, rfl⟩ := h
      have := digitSlots_length hds
      simp only [magnitudeSlots, hv, if_true] at this
      simp [this]; omega
    · next hv =>
      have := digitSlots_length h
      simpa only [magnitudeSlots, hv, if_false] using this

end Sys2Proof.Machine
end

