-- ==== Sys2Proof/Laws/Memory.lean ====
section
/-! SUPPORT. Cells of the target: a write is read back, leaves the other cells alone and keeps the canonical form; and
what one transmission does to every cell. -/

namespace Sys2Proof.Machine

@[simp] theorem Memory.read_nil (a : Nat) : Memory.read [] a = none := rfl

theorem Memory.read_write_same (m : Memory) (a : Nat) (d : Byte) : (m.write a d).read a = some d := by
  induction m with
  | nil => simp [Memory.write, Memory.read]
  | cons c rest ih =>
    obtain ⟨b, v⟩ := c
    simp only [Memory.write]
    split
    · simp [Memory.read]
    · split
      · simp [Memory.read]
      · simp [Memory.read, *]

theorem Memory.read_write_other (m : Memory) {a k : Nat} (d : Byte) (h : k ≠ a) :
    (m.write a d).read k = m.read k := by
  induction m with
  | nil => simp [Memory.write, Memory.read, h]
  | cons c rest ih =>
    obtain ⟨b, v⟩ := c
    simp only [Memory.write]
    split
    · simp [Memory.read, h]
    · split
      · next hab => subst hab; simp [Memory.read, h]
      · simp [Memory.read, ih]

/-- Reading after a write, in one equation. -/
theorem Memory.read_write (m : Memory) (a k : Nat) (d : Byte) :
    (m.write a d).read k = if k = a then some d else m.read k := by
  split
  · next h => subst h; exact m.read_write_same k d
  · next h => exact m.read_write_other d h

/-- Every address a write lists is the one written or was listed before. -/
theorem Memory.mem_write {m : Memory} {a : Nat} {d : Byte} {c : Host.Cell} (h : c ∈ m.write a d) :
    c = (a, d) ∨ c ∈ m := by
  induction m with
  | nil => simpa [Memory.write] using h
  | cons e rest ih =>
    obtain ⟨b, v⟩ := e
    simp only [Memory.write] at h
    split at h
    · simpa using h
    · split at h
      · rcases List.mem_cons.1 h with h | h
        · exact .inl h
        · exact .inr (List.mem_cons_of_mem _ h)
      · rcases List.mem_cons.1 h with h | h
        · exact .inr (h ▸ List.mem_cons_self)
        · exact (ih h).imp id (List.mem_cons_of_mem _)

/-- A write keeps the canonical form. -/
theorem Memory.write_wf {m : Memory} (h : m.wf) (a : Nat) (d : Byte) : (m.write a d).wf := by
  induction m with
  | nil => simp [Memory.write, Memory.wf]
  | cons e rest ih =>
    obtain ⟨b, v⟩ := e
    have hb : ∀ c ∈ rest, b < c.1 := (List.pairwise_cons.1 h).1
    have hr : Memory.wf rest := (List.pairwise_cons.1 h).2
    simp only [Memory.write]
    split
    · next hab =>
      refine List.pairwise_cons.2 ⟨fun c hc => ?_, h⟩
      rcases List.mem_cons.1 hc with rfl | hc
      · exact hab
      · exact Nat.lt_trans hab (hb c hc)
    · split
      · next hab => subst hab; exact List.pairwise_cons.2 ⟨hb, hr⟩
      · refine List.pairwise_cons.2 ⟨fun c hc => ?_, ih hr⟩
        rcases Memory.mem_write hc with rfl | hc
        · simp only; omega
        · exact hb c hc

@[simp] theorem Memory.wf_nil : Memory.wf [] := List.Pairwise.nil

/-- Every key of a written memory meets a bound that the old keys and the new one meet. -/
theorem Memory.write_keys {m : Memory} {P : Nat → Prop} {a : Nat} {d : Byte} (h : ∀ c ∈ m, P c.1) (ha : P a) :
    ∀ c ∈ m.write a d, P c.1 := by
  intro c hc
  rcases Memory.mem_write hc with rfl | hc
  · exact ha
  · exact h c hc

/-- Storing one byte keeps every list of cells canonical and within its bounds. -/
theorem Target.store_wf {p : Params} {t : Target} (h : t.wf p) (a d : Byte) : (t.store p a d).wf p := by
  obtain ⟨hr, h0, h1, kr, k0, k1⟩ := h
  unfold Target.store
  split
  · next hb => exact ⟨hr, Memory.write_wf h0 _ _, h1, kr, Memory.write_keys (P := (· < 8)) k0 (by omega), k1⟩
  · split
    · next hb => exact ⟨hr, h0, Memory.write_wf h1 _ _, kr, k0, Memory.write_keys (P := (· < 8)) k1 (by omega)⟩
    · split
      · next hb =>
        exact ⟨hr, Memory.write_wf h0 _ _, Memory.write_wf h1 _ _, kr,
          Memory.write_keys (P := (· < 8)) k0 (by omega), Memory.write_keys (P := (· < 8)) k1 (by omega)⟩
      · next n0 n1 n2 =>
        refine ⟨Memory.write_wf hr _ _, h0, h1, ?_, k0, k1⟩
        refine Memory.write_keys (P := fun k => k < 256 ∧ ∀ b ∈ p.bases, ¬ inBlock b (BitVec.ofNat 8 k)) kr ⟨a.isLt, ?_⟩
        intro b hb
        simp only [Params.bases, List.mem_cons, List.not_mem_nil, or_false] at hb
        rw [BitVec.ofNat_toNat, BitVec.setWidth_eq]
        rcases hb with rfl | rfl | rfl
        · exact n0
        · exact n1
        · exact n2

/-- Unknown cells are canonical. -/
theorem Target.unknown_wf (p : Params) : Target.unknown.wf p := by
  simp [Target.wf, Target.unknown]

/-- Forgetting the digits keeps the form. -/
theorem Target.forgetDigits_wf {p : Params} {t : Target} (h : t.wf p) : t.forgetDigits.wf p := by
  obtain ⟨hr, -, -, kr, -, -⟩ := h
  exact ⟨hr, Memory.wf_nil, Memory.wf_nil, kr, by simp [Target.forgetDigits], by simp [Target.forgetDigits]⟩

/-- One transmission keeps the form of every cell list, whatever its outcome. -/
theorem Target.applyXfer_wf {p : Params} {t : Target} (h : t.wf p) (w : CmdWord) (r : XferResult) :
    (t.applyXfer p w r).wf p := by
  cases r with
  | fail => exact Target.unknown_wf p
  | ok =>
    simp only [Target.applyXfer]
    split
    · exact Target.forgetDigits_wf (Target.store_wf h _ _)
    · exact Target.store_wf h _ _

@[simp] theorem Target.observe_nil (p : Params) (t : Target) : t.observe p [] = t := rfl

@[simp] theorem Target.observe_cons (p : Params) (t : Target) (e : Event) (es : List Event) :
    t.observe p (e :: es) = (t.applyEvent p e).observe p es := rfl

/-- Observing events one after the other. -/
theorem Target.observe_append (p : Params) (t : Target) (es fs : List Event) :
    t.observe p (es ++ fs) = (t.observe p es).observe p fs := by
  simp [Target.observe]

end Sys2Proof.Machine
end

