-- ==== Sys2Proof/Laws/Words.lean ====
section
/-! SUPPORT. The fields of a command word, of a response word and of a request word, read back from the packed word. -/

namespace Sys2Proof

@[simp] theorem Machine.cmdAddr_cmd (a d : Byte) : Machine.cmdAddr (Machine.cmd a d) = a := by
  ext k hk
  simp only [Machine.cmdAddr, Machine.cmd, BitVec.getElem_extractLsb', BitVec.getLsbD_append]
  have : ¬ 8 + k < 8 := by omega
  simp [this, BitVec.getLsbD_eq_getElem hk]

@[simp] theorem Machine.cmdData_cmd (a d : Byte) : Machine.cmdData (Machine.cmd a d) = d := by
  ext k hk
  simp only [Machine.cmdData, Machine.cmd, BitVec.getElem_extractLsb', BitVec.getLsbD_append]
  simp [hk]

/-- A command word is its two bytes. -/
theorem Machine.cmd_eta (w : CmdWord) : Machine.cmd (Machine.cmdAddr w) (Machine.cmdData w) = w := by
  ext k hk
  simp only [Machine.cmdAddr, Machine.cmdData, Machine.cmd, ← BitVec.getLsbD_eq_getElem, BitVec.getLsbD_append,
    BitVec.getLsbD_extractLsb']
  by_cases h : k < 8
  · simp [h]
  · have h1 : k - 8 < 8 := by omega
    have h2 : 8 + (k - 8) = k := by omega
    simp [h, h1, h2]

section fields

variable (op : BitVec 4) (pl : BitVec 2) (dp x : Bool) (a b : BitVec 32)

/-- One bit of a packed request word, by the field it lies in (30_encoding R60). -/
theorem getLsbD_packFields (k : Nat) : (packFields op pl dp x a b).getLsbD k =
    if k < 32 then b.getLsbD k
    else if k < 64 then a.getLsbD (k - 32)
    else if k = 64 then x
    else if k = 65 then dp
    else if k < 68 then pl.getLsbD (k - 66)
    else op.getLsbD (k - 68) := by
  unfold packFields
  simp only [BitVec.getLsbD_append, BitVec.getLsbD_ofBool]
  by_cases h1 : k < 32
  · simp [h1]
  by_cases h2 : k < 64
  · have : k - 32 < 32 := by omega
    simp [h1, h2, this]
  have h3 : ¬ k - 32 < 32 := by omega
  by_cases h4 : k = 64
  · subst h4; simp
  by_cases h5 : k = 65
  · subst h5; simp
  have h6 : ¬ k - 32 - 32 < 1 := by omega
  have h7 : ¬ k - 32 - 32 - 1 < 1 := by omega
  by_cases h8 : k < 68
  · have h9 : k - 32 - 32 - 1 - 1 < 2 := by omega
    have h10 : k - 32 - 32 - 1 - 1 = k - 66 := by omega
    rw [h10] at h9
    simp only [h1, h2, h3, h4, h5, h6, h7, h8, h9, h10, if_true, if_false]
  · have h9 : ¬ k - 32 - 32 - 1 - 1 < 2 := by omega
    have h10 : k - 32 - 32 - 1 - 1 - 2 = k - 68 := by omega
    simp only [h1, h2, h3, h4, h5, h6, h7, h8, h9, h10, if_false]

@[simp] theorem reqOp_packFields : reqOp (packFields op pl dp x a b) = op := by
  ext k hk
  simp only [reqOp, BitVec.getElem_extractLsb', getLsbD_packFields]
  have : ¬ 68 + k < 32 ∧ ¬ 68 + k < 64 ∧ ¬ 68 + k = 64 ∧ ¬ 68 + k = 65 ∧ ¬ 68 + k < 68 := by omega
  simp [this, BitVec.getLsbD_eq_getElem hk]

@[simp] theorem reqPl_packFields : reqPl (packFields op pl dp x a b) = pl := by
  ext k hk
  simp only [reqPl, BitVec.getElem_extractLsb', getLsbD_packFields]
  have : ¬ 66 + k < 32 ∧ ¬ 66 + k < 64 ∧ ¬ 66 + k = 64 ∧ ¬ 66 + k = 65 ∧ 66 + k < 68 := by omega
  simp [this, BitVec.getLsbD_eq_getElem hk]

@[simp] theorem reqDp_packFields : reqDp (packFields op pl dp x a b) = dp := by
  rw [reqDp, getLsbD_packFields]
  simp

@[simp] theorem reqA_packFields : reqA (packFields op pl dp x a b) = a := by
  ext k hk
  simp only [reqA, BitVec.getElem_extractLsb', getLsbD_packFields]
  have : ¬ 32 + k < 32 ∧ 32 + k < 64 := by omega
  simp [this, BitVec.getLsbD_eq_getElem hk]

@[simp] theorem reqB_packFields : reqB (packFields op pl dp x a b) = b := by
  ext k hk
  simp [reqB, BitVec.getElem_extractLsb', getLsbD_packFields, hk]

/-- Decoding a packed word reads back its fields. -/
theorem decode_packFields : decode (packFields op pl dp x a b) = decodeFields op pl dp a b := by
  simp [decode]

end fields

@[simp] theorem planeOfBits_planeBits (pl : PlaneCode) : planeOfBits (planeBits pl) = pl := by
  cases pl <;> rfl

@[simp] theorem planeBits_planeOfBits (b : BitVec 2) : planeBits (planeOfBits b) = b := by
  revert b; decide

/-- A 4-bit operation code is one of the sixteen. -/
theorem opCode_cases (op : BitVec 4) : op = 0 ∨ op = 1 ∨ op = 2 ∨ op = 3 ∨ op = 4 ∨ op = 5 ∨ op = 6 ∨ op = 7 ∨
    op = 8 ∨ op = 9 ∨ op = 10 ∨ op = 11 ∨ op = 12 ∨ op = 13 ∨ op = 14 ∨ op = 15 := by
  revert op; decide

/-- A signed number of 32 bits is read back from its two's-complement bits. -/
theorem toInt_ofInt_of_fits {v : Int} (h : fitsS32 v) : (BitVec.ofInt 32 v).toInt = v := by
  obtain ⟨h1, h2⟩ := h
  rw [BitVec.toInt_ofInt]
  norm_num [Int.bmod] at *
  omega

end Sys2Proof
end

