-- ==== Sys2Proof/Laws/PerInstr.lean ====
section
/-! SUPPORT. Statements made once per constructor. Family `OpField`: the `OP` field of a request's word is its operation
code, and the unused bit `X` is 0 (30_encoding R60, R62, R71). -/

namespace Sys2Proof.Laws.OpField

/-- The word of the request carries its operation code, and 0 in `X`. -/
def Statement (i : Instr) : Prop := reqOp (encode i) = opCode i ∧ (encode i).getLsbD 64 = false

/-- A packed word with `X` = 0 has both properties. -/
theorem packed (op : BitVec 4) (pl : BitVec 2) (dp : Bool) (a b : BitVec 32) :
    reqOp (packFields op pl dp false a b) = op ∧ (packFields op pl dp false a b).getLsbD 64 = false :=
  ⟨reqOp_packFields .., by rw [getLsbD_packFields]; simp⟩

theorem setblink (mode : Nat) : Statement (.setblink mode) := packed _ _ _ _ _
theorem clear : Statement .clear := packed _ _ _ _ _
theorem setdisp (mode : Nat) : Statement (.setdisp mode) := packed _ _ _ _ _
theorem setdigits (n : Nat) : Statement (.setdigits n) := packed _ _ _ _ _
theorem setint (level : Nat) : Statement (.setint level) := packed _ _ _ _ _
theorem setdecode (mask : Nat) : Statement (.setdecode mask) := packed _ _ _ _ _
theorem digit (pl : PlaneCode) (dp : Bool) (index value : Nat) : Statement (.digit pl dp index value) :=
  packed _ _ _ _ _
theorem number (pl : PlaneCode) (n : Nat) (value : Int) : Statement (.number pl n value) :=
  packed _ _ _ _ _
theorem reserved0 : Statement .reserved0 := packed _ _ _ _ _
theorem reserved9 : Statement .reserved9 := packed _ _ _ _ _
theorem reservedA : Statement .reservedA := packed _ _ _ _ _
theorem reservedB : Statement .reservedB := packed _ _ _ _ _
theorem reservedC : Statement .reservedC := packed _ _ _ _ _
theorem reservedD : Statement .reservedD := packed _ _ _ _ _
theorem reservedE : Statement .reservedE := packed _ _ _ _ _
theorem reservedF : Statement .reservedF := packed _ _ _ _ _

end Sys2Proof.Laws.OpField
end

