-- ==== Sys2Proof/Laws/State.lean ====
section
/-! SUPPORT. One lemma per field for each named update of the state, so that no later proof unfolds a record update. -/

namespace Sys2Proof.Machine

variable (s : State)

/-! ### Taking the next outcome -/

@[simp] theorem consumeOutcome_phase : (consumeOutcome s).phase = s.phase := by
  unfold consumeOutcome; split <;> rfl
@[simp] theorem consumeOutcome_pending : (consumeOutcome s).pending = s.pending := by
  unfold consumeOutcome; split <;> rfl
@[simp] theorem consumeOutcome_sent : (consumeOutcome s).sent = s.sent := by
  unfold consumeOutcome; split <;> rfl
@[simp] theorem consumeOutcome_sel : (consumeOutcome s).sel = s.sel := by
  unfold consumeOutcome; split <;> rfl
@[simp] theorem consumeOutcome_params : (consumeOutcome s).params = s.params := by
  unfold consumeOutcome; split <;> rfl
@[simp] theorem consumeOutcome_target : (consumeOutcome s).target = s.target := by
  unfold consumeOutcome; split <;> rfl
@[simp] theorem consumeOutcome_trace : (consumeOutcome s).trace = s.trace := by
  unfold consumeOutcome; split <;> rfl
@[simp] theorem consumeOutcome_calls : (consumeOutcome s).calls = s.calls := by
  unfold consumeOutcome; split <;> rfl
@[simp] theorem consumeOutcome_fontResults : (consumeOutcome s).fontResults = s.fontResults := by
  unfold consumeOutcome; split <;> rfl
@[simp] theorem consumeOutcome_inputs : (consumeOutcome s).inputs = s.inputs := by
  unfold consumeOutcome; split <;> rfl
@[simp] theorem consumeOutcome_draws : (consumeOutcome s).draws = s.draws.tail := by
  unfold consumeOutcome; split <;> simp_all

/-! ### Opening the bracket -/

@[simp] theorem assertSelect_phase : (assertSelect s).phase = s.phase := rfl
@[simp] theorem assertSelect_pending : (assertSelect s).pending = s.pending := rfl
@[simp] theorem assertSelect_sent : (assertSelect s).sent = s.sent := rfl
@[simp] theorem assertSelect_sel : (assertSelect s).sel = true := rfl
@[simp] theorem assertSelect_params : (assertSelect s).params = s.params := rfl
@[simp] theorem assertSelect_target : (assertSelect s).target = s.target := rfl
@[simp] theorem assertSelect_trace : (assertSelect s).trace = s.trace := rfl
@[simp] theorem assertSelect_calls : (assertSelect s).calls = s.calls ++ [.assertSelect s.params.csId] := rfl
@[simp] theorem assertSelect_fontResults : (assertSelect s).fontResults = s.fontResults := rfl
@[simp] theorem assertSelect_inputs : (assertSelect s).inputs = s.inputs := rfl
@[simp] theorem assertSelect_draws : (assertSelect s).draws = s.draws := rfl
@[simp] theorem assertSelect_drawCount : (assertSelect s).drawCount = s.drawCount := rfl

/-! ### Closing the bracket -/

@[simp] theorem deassertSelect_phase : (deassertSelect s).phase = s.phase := rfl
@[simp] theorem deassertSelect_pending : (deassertSelect s).pending = s.pending := rfl
@[simp] theorem deassertSelect_sent : (deassertSelect s).sent = s.sent := rfl
@[simp] theorem deassertSelect_sel : (deassertSelect s).sel = false := rfl
@[simp] theorem deassertSelect_params : (deassertSelect s).params = s.params := rfl
@[simp] theorem deassertSelect_target : (deassertSelect s).target = s.target := rfl
@[simp] theorem deassertSelect_trace : (deassertSelect s).trace = s.trace := rfl
@[simp] theorem deassertSelect_calls : (deassertSelect s).calls = s.calls ++ [.deassertSelect s.params.csId] := rfl
@[simp] theorem deassertSelect_fontResults : (deassertSelect s).fontResults = s.fontResults := rfl
@[simp] theorem deassertSelect_inputs : (deassertSelect s).inputs = s.inputs := rfl
@[simp] theorem deassertSelect_draws : (deassertSelect s).draws = s.draws := rfl
@[simp] theorem deassertSelect_drawCount : (deassertSelect s).drawCount = s.drawCount := rfl

/-! ### A response -/

@[simp] theorem respond_phase (st : Status) (n : BitVec 4) : (respond st n s).phase = s.phase := rfl
@[simp] theorem respond_pending (st : Status) (n : BitVec 4) : (respond st n s).pending = s.pending := rfl
@[simp] theorem respond_sent (st : Status) (n : BitVec 4) : (respond st n s).sent = s.sent := rfl
@[simp] theorem respond_sel (st : Status) (n : BitVec 4) : (respond st n s).sel = s.sel := rfl
@[simp] theorem respond_params (st : Status) (n : BitVec 4) : (respond st n s).params = s.params := rfl
@[simp] theorem respond_target (st : Status) (n : BitVec 4) : (respond st n s).target = s.target := rfl
@[simp] theorem respond_trace (st : Status) (n : BitVec 4) : (respond st n s).trace = s.trace ++ [.respond st n] := rfl
@[simp] theorem respond_calls (st : Status) (n : BitVec 4) : (respond st n s).calls = s.calls := rfl
@[simp] theorem respond_fontResults (st : Status) (n : BitVec 4) : (respond st n s).fontResults = s.fontResults := rfl
@[simp] theorem respond_inputs (st : Status) (n : BitVec 4) : (respond st n s).inputs = s.inputs := rfl
@[simp] theorem respond_draws (st : Status) (n : BitVec 4) : (respond st n s).draws = s.draws := rfl
@[simp] theorem respond_drawCount (st : Status) (n : BitVec 4) : (respond st n s).drawCount = s.drawCount := rfl

/-! ### Back to Idle -/

@[simp] theorem toIdle_phase : (toIdle s).phase = .idle := rfl
@[simp] theorem toIdle_pending : (toIdle s).pending = [] := rfl
@[simp] theorem toIdle_sent : (toIdle s).sent = 0 := rfl
@[simp] theorem toIdle_sel : (toIdle s).sel = s.sel := rfl
@[simp] theorem toIdle_params : (toIdle s).params = s.params := rfl
@[simp] theorem toIdle_target : (toIdle s).target = s.target := rfl
@[simp] theorem toIdle_trace : (toIdle s).trace = s.trace := rfl
@[simp] theorem toIdle_calls : (toIdle s).calls = s.calls := rfl
@[simp] theorem toIdle_fontResults : (toIdle s).fontResults = s.fontResults := rfl
@[simp] theorem toIdle_inputs : (toIdle s).inputs = s.inputs := rfl
@[simp] theorem toIdle_draws : (toIdle s).draws = s.draws := rfl
@[simp] theorem toIdle_drawCount : (toIdle s).drawCount = s.drawCount := rfl

/-! ### InvalidArgument -/

@[simp] theorem raiseInvalidArgument_phase : (raiseInvalidArgument s).phase = s.phase := rfl
@[simp] theorem raiseInvalidArgument_pending : (raiseInvalidArgument s).pending = s.pending := rfl
@[simp] theorem raiseInvalidArgument_sent : (raiseInvalidArgument s).sent = s.sent := rfl
@[simp] theorem raiseInvalidArgument_sel : (raiseInvalidArgument s).sel = s.sel := rfl
@[simp] theorem raiseInvalidArgument_params : (raiseInvalidArgument s).params = s.params := rfl
@[simp] theorem raiseInvalidArgument_target : (raiseInvalidArgument s).target = s.target := rfl
@[simp] theorem raiseInvalidArgument_trace : (raiseInvalidArgument s).trace = s.trace ++ [.respond .invalidArgument 0] := rfl
@[simp] theorem raiseInvalidArgument_calls : (raiseInvalidArgument s).calls = s.calls := rfl
@[simp] theorem raiseInvalidArgument_fontResults : (raiseInvalidArgument s).fontResults = s.fontResults := rfl
@[simp] theorem raiseInvalidArgument_inputs : (raiseInvalidArgument s).inputs = s.inputs := rfl
@[simp] theorem raiseInvalidArgument_draws : (raiseInvalidArgument s).draws = s.draws := rfl
@[simp] theorem raiseInvalidArgument_drawCount : (raiseInvalidArgument s).drawCount = s.drawCount := rfl

/-! ### TransportFailure -/

@[simp] theorem raiseTransportFailure_phase : (raiseTransportFailure s).phase = .idle := rfl
@[simp] theorem raiseTransportFailure_pending : (raiseTransportFailure s).pending = [] := rfl
@[simp] theorem raiseTransportFailure_sent : (raiseTransportFailure s).sent = 0 := rfl
@[simp] theorem raiseTransportFailure_sel : (raiseTransportFailure s).sel = s.sel := rfl
@[simp] theorem raiseTransportFailure_params : (raiseTransportFailure s).params = s.params := rfl
@[simp] theorem raiseTransportFailure_target : (raiseTransportFailure s).target = s.target := rfl
@[simp] theorem raiseTransportFailure_trace : (raiseTransportFailure s).trace = s.trace ++ [.respond .transportFailure s.sent] := rfl
@[simp] theorem raiseTransportFailure_calls : (raiseTransportFailure s).calls = s.calls := rfl
@[simp] theorem raiseTransportFailure_fontResults : (raiseTransportFailure s).fontResults = s.fontResults := rfl
@[simp] theorem raiseTransportFailure_inputs : (raiseTransportFailure s).inputs = s.inputs := rfl
@[simp] theorem raiseTransportFailure_draws : (raiseTransportFailure s).draws = s.draws := rfl
@[simp] theorem raiseTransportFailure_drawCount : (raiseTransportFailure s).drawCount = s.drawCount := rfl

/-! ### Completion -/

@[simp] theorem complete_phase : (complete s).phase = .idle := rfl
@[simp] theorem complete_pending : (complete s).pending = [] := rfl
@[simp] theorem complete_sent : (complete s).sent = 0 := rfl
@[simp] theorem complete_sel : (complete s).sel = s.sel := rfl
@[simp] theorem complete_params : (complete s).params = s.params := rfl
@[simp] theorem complete_target : (complete s).target = s.target := rfl
@[simp] theorem complete_trace : (complete s).trace = s.trace ++ [.respond .ok s.sent] := rfl
@[simp] theorem complete_calls : (complete s).calls = s.calls := rfl
@[simp] theorem complete_fontResults : (complete s).fontResults = s.fontResults := rfl
@[simp] theorem complete_inputs : (complete s).inputs = s.inputs := rfl
@[simp] theorem complete_draws : (complete s).draws = s.draws := rfl
@[simp] theorem complete_drawCount : (complete s).drawCount = s.drawCount := rfl

/-! ### A font query -/

@[simp] theorem queryFont_phase (c : Byte) : (queryFont c s).phase = s.phase := rfl
@[simp] theorem queryFont_pending (c : Byte) : (queryFont c s).pending = s.pending := rfl
@[simp] theorem queryFont_sent (c : Byte) : (queryFont c s).sent = s.sent := rfl
@[simp] theorem queryFont_sel (c : Byte) : (queryFont c s).sel = s.sel := rfl
@[simp] theorem queryFont_params (c : Byte) : (queryFont c s).params = s.params := rfl
@[simp] theorem queryFont_target (c : Byte) : (queryFont c s).target = s.target := rfl
@[simp] theorem queryFont_trace (c : Byte) : (queryFont c s).trace = s.trace := rfl
@[simp] theorem queryFont_calls (c : Byte) : (queryFont c s).calls = s.calls := rfl
@[simp] theorem queryFont_fontResults (c : Byte) : (queryFont c s).fontResults = s.fontResults ++ [fontLookup s.params c] := rfl
@[simp] theorem queryFont_inputs (c : Byte) : (queryFont c s).inputs = s.inputs := rfl
@[simp] theorem queryFont_draws (c : Byte) : (queryFont c s).draws = s.draws := rfl
@[simp] theorem queryFont_drawCount (c : Byte) : (queryFont c s).drawCount = s.drawCount := rfl

/-! ### Placing a request -/

@[simp] theorem placeRequest_phase (w : ReqWord) : (placeRequest w s).phase = .idle := rfl
@[simp] theorem placeRequest_pending (w : ReqWord) : (placeRequest w s).pending = [] := rfl
@[simp] theorem placeRequest_sent (w : ReqWord) : (placeRequest w s).sent = 0 := rfl
@[simp] theorem placeRequest_sel (w : ReqWord) : (placeRequest w s).sel = s.sel := rfl
@[simp] theorem placeRequest_params (w : ReqWord) : (placeRequest w s).params = s.params := rfl
@[simp] theorem placeRequest_target (w : ReqWord) : (placeRequest w s).target = s.target := rfl
@[simp] theorem placeRequest_trace (w : ReqWord) : (placeRequest w s).trace = s.trace := rfl
@[simp] theorem placeRequest_calls (w : ReqWord) : (placeRequest w s).calls = s.calls := rfl
@[simp] theorem placeRequest_fontResults (w : ReqWord) : (placeRequest w s).fontResults = s.fontResults := rfl
@[simp] theorem placeRequest_inputs (w : ReqWord) : (placeRequest w s).inputs = .request w :: s.inputs := rfl
@[simp] theorem placeRequest_draws (w : ReqWord) : (placeRequest w s).draws = s.draws := rfl
@[simp] theorem placeRequest_drawCount (w : ReqWord) : (placeRequest w s).drawCount = s.drawCount := rfl

/-! ### One transmission -/

@[simp] theorem transmit_phase (w : CmdWord) : (transmit w s).phase = s.phase := by simp [transmit]
@[simp] theorem transmit_pending (w : CmdWord) : (transmit w s).pending = s.pending := by simp [transmit]
@[simp] theorem transmit_sent (w : CmdWord) : (transmit w s).sent = s.sent := by simp [transmit]
@[simp] theorem transmit_sel (w : CmdWord) : (transmit w s).sel = s.sel := by simp [transmit]
@[simp] theorem transmit_params (w : CmdWord) : (transmit w s).params = s.params := by simp [transmit]
@[simp] theorem transmit_target (w : CmdWord) : (transmit w s).target = s.target := by simp [transmit]
@[simp] theorem transmit_trace (w : CmdWord) : (transmit w s).trace = s.trace := by simp [transmit]
@[simp] theorem transmit_calls (w : CmdWord) : (transmit w s).calls = s.calls ++ [.transmit (cmdAddr w) (cmdData w)] := rfl
@[simp] theorem transmit_fontResults (w : CmdWord) : (transmit w s).fontResults = s.fontResults := by simp [transmit]
@[simp] theorem transmit_inputs (w : CmdWord) : (transmit w s).inputs = s.inputs := by simp [transmit]
@[simp] theorem transmit_draws (w : CmdWord) : (transmit w s).draws = s.draws.tail := by simp [transmit]
@[simp] theorem transmit_drawCount (w : CmdWord) : (transmit w s).drawCount = (consumeOutcome s).drawCount := rfl

/-! ### One bracketed transmission -/

@[simp] theorem xfer_phase (w : CmdWord) : (xfer w s).phase = s.phase := by simp [xfer]
@[simp] theorem xfer_pending (w : CmdWord) : (xfer w s).pending = s.pending := by simp [xfer]
@[simp] theorem xfer_sent (w : CmdWord) : (xfer w s).sent = s.sent := by simp [xfer]
@[simp] theorem xfer_sel (w : CmdWord) : (xfer w s).sel = false := by simp [xfer]
@[simp] theorem xfer_params (w : CmdWord) : (xfer w s).params = s.params := by simp [xfer]
@[simp] theorem xfer_target (w : CmdWord) : (xfer w s).target = s.target.applyXfer s.params w (nextOutcome s) := by simp [xfer]
@[simp] theorem xfer_trace (w : CmdWord) : (xfer w s).trace = s.trace ++ [.xfer w (nextOutcome s)] := by simp [xfer]
@[simp] theorem xfer_fontResults (w : CmdWord) : (xfer w s).fontResults = s.fontResults := by simp [xfer]
@[simp] theorem xfer_inputs (w : CmdWord) : (xfer w s).inputs = s.inputs := by simp [xfer]
@[simp] theorem xfer_draws (w : CmdWord) : (xfer w s).draws = s.draws.tail := by simp [xfer]
@[simp] theorem xfer_calls (w : CmdWord) : (xfer w s).calls =
    s.calls ++ [.assertSelect s.params.csId, .transmit (cmdAddr w) (cmdData w), .deassertSelect s.params.csId] := by
  simp [xfer]
@[simp] theorem xfer_drawCount (w : CmdWord) : (xfer w s).drawCount = (consumeOutcome s).drawCount := by
  cases h : s.draws <;> simp [xfer, transmit, assertSelect, deassertSelect, consumeOutcome, h]

/-! ### Reset -/

@[simp] theorem resetBlock_phase : (resetBlock s).phase = .idle := by
  unfold resetBlock; split <;> rfl
@[simp] theorem resetBlock_pending : (resetBlock s).pending = [] := by
  unfold resetBlock; split <;> rfl
@[simp] theorem resetBlock_sent : (resetBlock s).sent = 0 := by
  unfold resetBlock; split <;> rfl
@[simp] theorem resetBlock_sel : (resetBlock s).sel = false := by
  unfold resetBlock; split <;> rfl
@[simp] theorem resetBlock_params : (resetBlock s).params = s.params := by
  unfold resetBlock; split <;> rfl
@[simp] theorem resetBlock_trace : (resetBlock s).trace = s.trace := by
  unfold resetBlock; split <;> rfl
@[simp] theorem resetBlock_calls : (resetBlock s).calls = s.calls := by
  unfold resetBlock; split <;> rfl
@[simp] theorem resetBlock_fontResults : (resetBlock s).fontResults = s.fontResults := by
  unfold resetBlock; split <;> rfl
@[simp] theorem resetBlock_inputs : (resetBlock s).inputs = s.inputs := by
  unfold resetBlock; split <;> rfl
@[simp] theorem resetBlock_draws : (resetBlock s).draws = s.draws := by
  unfold resetBlock; split <;> rfl
@[simp] theorem resetBlock_drawCount : (resetBlock s).drawCount = s.drawCount := by
  unfold resetBlock; split <;> rfl
theorem resetBlock_target_idle (h : s.phase = .idle) : (resetBlock s).target = s.target := by
  simp [resetBlock, h]
theorem resetBlock_target_busy (h : s.phase = .busy) : (resetBlock s).target = Target.unknown := by
  simp [resetBlock, h]

end Sys2Proof.Machine
end

