-- ==== Sys2Proof/Laws/Step.lean ====
section
/-! SUPPORT. What `accept`, the sequencer and a step can do, each said once. -/

namespace Sys2Proof.Machine

/-- Every meaning is the acceptance of what `encode` answers (10_state R28). -/
theorem exec_eq_accept (i : Instr) (s : State) : exec i s = accept (encodeRequest s.params i) s := by
  cases i <;> rfl

theorem accept_busy (r : EncodeResult) {s : State} (h : s.phase = .busy) :
    accept r s = .refused .requestWhileBusy := by
  simp [accept, h]

theorem accept_invalid {s : State} (h : s.phase = .idle) :
    accept .invalidArgument s = .next (raiseInvalidArgument s) := by
  simp [accept, h]

theorem accept_words (ws : List CmdWord) {s : State} (h : s.phase = .idle) :
    accept (.words ws) s = .next { s with phase := .busy, pending := ws, sent := 0 } := by
  simp [accept, h]

/-- Everything `accept` can do when it answers a next state. -/
theorem accept_next {r : EncodeResult} {s t : State} (h : accept r s = .next t) :
    s.phase = .idle ∧
      ((r = .invalidArgument ∧ t = raiseInvalidArgument s) ∨
        ∃ ws, r = .words ws ∧ t = { s with phase := .busy, pending := ws, sent := 0 }) := by
  cases hp : s.phase with
  | busy => simp [accept, hp] at h
  | idle =>
    cases r with
    | invalidArgument => rw [accept_invalid hp] at h; exact ⟨rfl, .inl ⟨rfl, by simpa using h.symm⟩⟩
    | words ws => rw [accept_words ws hp] at h; exact ⟨rfl, .inr ⟨ws, rfl, by simpa using h.symm⟩⟩

theorem accept_ne_fault (r : EncodeResult) (s : State) (f : Fault) : accept r s ≠ .fault f := nomatch f

@[simp] theorem nextOutcome_cons {s : State} {r : XferResult} {rest : List XferResult} (h : s.draws = r :: rest) :
    nextOutcome s = r := by
  simp [nextOutcome, h]

/-- Past the listed outcomes a transmission's outcome is the free draw. -/
theorem nextOutcome_nil {s : State} (h : s.draws = []) : nextOutcome s = Config.freeXfer s.drawCount := by
  simp [nextOutcome, h]

theorem sendWord_ok (w : CmdWord) (rest : List CmdWord) {s : State} (h : nextOutcome s = .ok) :
    sendWord w rest s = { xfer w s with pending := rest, sent := s.sent + 1 } := by
  simp [sendWord, h]

theorem sendWord_fail (w : CmdWord) (rest : List CmdWord) {s : State} (h : nextOutcome s = .fail) :
    sendWord w rest s = raiseTransportFailure (xfer w s) := by
  simp [sendWord, h]

theorem advance_idle {s : State} (h : s.phase = .idle) : advance s = s := by
  simp [advance, h]

theorem advance_send {s : State} {w : CmdWord} {rest : List CmdWord} (h : s.phase = .busy) (hp : s.pending = w :: rest) :
    advance s = sendWord w rest s := by
  simp [advance, h, hp]

theorem advance_complete {s : State} (h : s.phase = .busy) (hp : s.pending = []) : advance s = complete s := by
  simp [advance, h, hp]

/-- Everything one bracketed transmission does (60_exceptions R178). -/
theorem xfer_eq (w : CmdWord) (s : State) : xfer w s = { s with
    sel := false
    target := s.target.applyXfer s.params w (nextOutcome s)
    trace := s.trace ++ [.xfer w (nextOutcome s)]
    calls := s.calls ++ bracketOf s.params.csId w
    draws := s.draws.tail
    drawCount := if s.draws = [] then s.drawCount + 1 else s.drawCount } := by
  cases h : s.draws <;>
    simp [xfer, transmit, assertSelect, deassertSelect, consumeOutcome, nextOutcome, h, bracketOf]

/-- Everything the block's own step can do (10_state R28: nothing, Complete, Send-ok, Send-fail). -/
theorem advance_cases (s : State) :
    (s.phase = .idle ∧ advance s = s) ∨
    (s.phase = .busy ∧ s.pending = [] ∧ advance s = complete s) ∨
    (∃ w rest, s.phase = .busy ∧ s.pending = w :: rest ∧ nextOutcome s = .ok ∧
      advance s = { xfer w s with pending := rest, sent := s.sent + 1 }) ∨
    ∃ w rest, s.phase = .busy ∧ s.pending = w :: rest ∧ nextOutcome s = .fail ∧
      advance s = raiseTransportFailure (xfer w s) := by
  cases hp : s.phase with
  | idle => exact .inl ⟨rfl, advance_idle hp⟩
  | busy =>
    cases hw : s.pending with
    | nil => exact .inr (.inl ⟨rfl, rfl, advance_complete hp hw⟩)
    | cons w rest =>
      cases ho : nextOutcome s with
      | ok => exact .inr (.inr (.inl ⟨w, rest, rfl, rfl, rfl, by rw [advance_send hp hw, sendWord_ok w rest ho]⟩))
      | fail => exact .inr (.inr (.inr ⟨w, rest, rfl, rfl, rfl, by rw [advance_send hp hw, sendWord_fail w rest ho]⟩))

/-- The block's own step neither reads nor changes the inputs still to come. -/
theorem advance_inputs (s : State) (ins : List Input) :
    advance { s with inputs := ins } = { advance s with inputs := ins } := by
  have hn : nextOutcome { s with inputs := ins } = nextOutcome s := rfl
  have hx : ∀ w, xfer w { s with inputs := ins } = { xfer w s with inputs := ins } := by
    intro w
    rw [xfer_eq, xfer_eq, hn]
  rcases advance_cases s with ⟨hb, e⟩ | ⟨hb, hw, e⟩ | ⟨w, rest, hb, hw, ho, e⟩ | ⟨w, rest, hb, hw, ho, e⟩ <;> rw [e]
  · rw [advance_idle (by exact hb)]
  · rw [advance_complete (by exact hb) (by exact hw)]; rfl
  · rw [advance_send (by exact hb) (by exact hw), sendWord_ok w rest (hn.trans ho), hx]
  · rw [advance_send (by exact hb) (by exact hw), sendWord_fail w rest (hn.trans ho), hx]; rfl

/-- While nothing from outside touches it, a busy block makes its own step, and one `quiet` goes off the inputs. -/
theorem step_undisturbed {s : State} (hi : undisturbedFor 1 s.inputs) (hb : s.phase = .busy) :
    step s = .next { advance s with inputs := dropQuiets 1 s.inputs } := by
  rw [← advance_inputs]
  unfold step nextMove
  match h : s.inputs with
  | [] => simp only [dropQuiets, ← h]
  | .request w :: rest => simp only [dropQuiets, hb, ← h]; rw [← hb]
  | .quiet :: rest => simp only [dropQuiets]
  | .requestNow _ :: _ => simp only [h, undisturbedFor] at hi
  | .fontQuery _ :: _ => simp only [h, undisturbedFor] at hi
  | .reset :: _ => simp only [h, undisturbedFor] at hi

/-- One step of an undisturbed stretch, and the rest of it. -/
theorem undisturbedFor_succ {k : Nat} {ins : List Input} (h : undisturbedFor (k + 1) ins) :
    undisturbedFor 1 ins ∧ undisturbedFor k (dropQuiets 1 ins) := by
  match ins with
  | [] => cases k <;> simp [undisturbedFor, dropQuiets]
  | .request w :: rest => cases k <;> simp [undisturbedFor, dropQuiets]
  | .quiet :: rest => simpa [undisturbedFor, dropQuiets] using h
  | .requestNow _ :: _ => simp [undisturbedFor] at h
  | .fontQuery _ :: _ => simp [undisturbedFor] at h
  | .reset :: _ => simp [undisturbedFor] at h

theorem dropQuiets_succ (k : Nat) (ins : List Input) : dropQuiets (k + 1) ins = dropQuiets k (dropQuiets 1 ins) := by
  match ins with
  | [] => cases k <;> rfl
  | .request _ :: _ => cases k <;> rfl
  | .quiet :: _ => rfl
  | .requestNow _ :: _ => cases k <;> rfl
  | .fontQuery _ :: _ => cases k <;> rfl
  | .reset :: _ => cases k <;> rfl

/-- An undisturbed stretch of `a + b` steps is one of `a` steps and then one of `b`. -/
theorem undisturbedFor_add {a b : Nat} {ins : List Input} (h : undisturbedFor (a + b) ins) :
    undisturbedFor a ins ∧ undisturbedFor b (dropQuiets a ins) := by
  induction a generalizing ins with
  | zero => exact ⟨trivial, by simpa [dropQuiets] using h⟩
  | succ a ih =>
    rw [Nat.add_right_comm] at h
    match ins with
    | [] => exact ⟨trivial, by cases b <;> trivial⟩
    | .request _ :: _ => exact ⟨trivial, by cases b <;> trivial⟩
    | .quiet :: rest => exact ih h

theorem dropQuiets_add (a b : Nat) (ins : List Input) : dropQuiets (a + b) ins = dropQuiets b (dropQuiets a ins) := by
  induction a generalizing ins with
  | zero => rw [Nat.zero_add]; rfl
  | succ a ih => rw [Nat.add_right_comm, dropQuiets_succ, ih, dropQuiets_succ a]

/-- Everything a step can do when it answers a next state: it accepts a request, makes the block's own step, resets, or
answers a font query. -/
theorem step_cases {s t : State} (h : step s = .next t) :
    (∃ i rest, s.phase = .idle ∧ exec i { s with inputs := rest } = .next t) ∨
    (∃ ins, t = advance { s with inputs := ins }) ∨
    (∃ rest, s.inputs = .reset :: rest ∧ t = resetBlock { s with inputs := rest }) ∨
    ∃ c rest, s.inputs = .fontQuery c :: rest ∧ t = queryFont c { s with inputs := rest } := by
  unfold step nextMove at h
  cases hi : s.inputs with
  | nil => simp only [hi] at h; exact .inr (.inl ⟨[], by rw [← hi]; simpa using h.symm⟩)
  | cons m rest =>
    cases m with
    | request w =>
      rcases (by cases s.phase <;> simp : s.phase = .idle ∨ s.phase = .busy) with hp | hp
      · simp only [hi, hp] at h; exact .inl ⟨decode w, rest, hp, hp ▸ h⟩
      · simp only [hi, hp] at h; exact .inr (.inl ⟨s.inputs, by injection h with h; exact h.symm⟩)
    | requestNow w =>
      simp only [hi] at h
      have hp : s.phase = .idle := by
        rw [exec_eq_accept] at h
        exact (accept_next h).1
      exact .inl ⟨decode w, rest, hp, h⟩
    | fontQuery c => simp only [hi] at h; exact .inr (.inr (.inr ⟨c, rest, rfl, by simpa using h.symm⟩))
    | reset => simp only [hi] at h; exact .inr (.inr (.inl ⟨rest, rfl, by simpa using h.symm⟩))
    | quiet => simp only [hi] at h; exact .inr (.inl ⟨rest, by simpa using h.symm⟩)

/-- Running on from a step that answered. -/
theorem run_succ {k : Nat} {s t : State} (h : step s = .next t) : run (k + 1) s = run k t := by
  simp [run, h]

@[simp] theorem run_zero (s : State) : run 0 s = .next s := rfl

/-- A run cut in two. -/
theorem run_add {a : Nat} (b : Nat) {s t : State} (h : run a s = .next t) : run (a + b) s = run b t := by
  induction a generalizing s with
  | zero =>
    rw [run_zero] at h
    rw [Nat.zero_add, Host.Outcome.next.inj h]
  | succ a ih =>
    rw [Nat.add_right_comm]
    simp only [run] at h ⊢
    split at h <;> simp_all

/-- Whole brackets stay whole when another bracket follows. -/
theorem bracketed_append {line : Nat} {cs : List BusCall} (h : bracketed line cs = true) (a d : Byte) :
    bracketed line (cs ++ [.assertSelect line, .transmit a d, .deassertSelect line]) = true := by
  induction cs using bracketed.induct with
  | case1 => simp [bracketed]
  | case2 a' _ _ b' rest ih =>
    simp only [bracketed, Bool.and_eq_true, beq_iff_eq] at h
    simp [bracketed, h.1.1, h.1.2, ih h.2]
  | case3 t h1 h2 => simp [bracketed] at h

end Sys2Proof.Machine
end

