-- ==== Sys2Proof/Laws/Units.lean ====
section
/-! SUPPORT. The address decoder, the configuration packer and the parameter constraints, each by one lemma. -/

namespace Sys2Proof.Machine

/-- The decoder on an index and a plane it accepts (40_register_model R80). -/
theorem resolve_of_base {p : Params} {pl : PlaneCode} {d : Nat} {b : Byte} (hd : d ≤ 7) (hb : planeBase p pl = some b) :
    resolveDigitAddress p pl d = ⟨true, b + BitVec.ofNat 8 d⟩ := by
  unfold resolveDigitAddress
  rw [if_neg (by omega), hb]

/-- What the decoder accepts. -/
theorem resolve_ok {p : Params} {pl : PlaneCode} {d : Nat} (h : (resolveDigitAddress p pl d).ok ≠ false) :
    d ≤ 7 ∧ ∃ b, planeBase p pl = some b ∧ resolveDigitAddress p pl d = ⟨true, b + BitVec.ofNat 8 d⟩ := by
  by_cases hd : d > 7
  · simp [resolveDigitAddress, hd] at h
  · cases hb : planeBase p pl with
    | none => simp [resolveDigitAddress, hd, hb] at h
    | some b => exact ⟨by omega, b, rfl, resolve_of_base (by omega) hb⟩

/-- Every plane but code 3 has a base. -/
theorem planeBase_isSome (p : Params) {pl : PlaneCode} (h : pl ≠ .pl3) : ∃ b, planeBase p pl = some b := by
  cases pl <;> simp [planeBase] at h ⊢

/-- A plane's base is one of the three. -/
theorem planeBase_mem {p : Params} {pl : PlaneCode} {b : Byte} (h : planeBase p pl = some b) : b ∈ p.bases := by
  cases pl <;> simp [planeBase] at h <;> simp [Params.bases, h]

/-- A digit address never carries out of its byte (40_register_model R80). -/
theorem digitAddr_toNat {p : Params} (hp : p.wellFormed) {b : Byte} (hb : b ∈ p.bases) {d : Nat} (hd : d ≤ 7) :
    (b + BitVec.ofNat 8 d).toNat = b.toNat + d := by
  have := hp.1.1 b hb
  rw [BitVec.toNat_add, BitVec.toNat_ofNat]
  omega

/-- A digit address lies in its block. -/
theorem digitAddr_inBlock {p : Params} (hp : p.wellFormed) {b : Byte} (hb : b ∈ p.bases) {d : Nat} (hd : d ≤ 7) :
    inBlock b (b + BitVec.ofNat 8 d) := by
  simp only [inBlock, digitAddr_toNat hp hb hd]
  omega

/-- No control register lies in a digit block (00_scope R8 (2)). -/
theorem control_not_inBlock {p : Params} (hp : p.wellFormed) {a b : Byte} (ha : a ∈ p.controlAddrs) (hb : b ∈ p.bases) :
    ¬ inBlock b a := hp.2.1.2 a ha b hb

/-- Bit `j` after bit `k` was written. -/
theorem getLsbD_setBit (v : Byte) (k j : Fin 8) (b : Bool) :
    (setBit v k b).getLsbD j = if j = k then b else v.getLsbD j := by
  by_cases h : j = k
  · subst h; cases b <;> simp [setBit]
  · have h1 : ¬ (k : Nat) = (j : Nat) := fun e => h (Fin.ext e.symm)
    have h2 : ¬ (j : Nat) = (k : Nat) := fun e => h (Fin.ext e)
    cases b <;> simp [setBit, h, h2]

/-- Bit `j` of a packed configuration: the last field written to that bit (40_register_model R82). -/
theorem getLsbD_packConfiguration (p : Params) (op rd br be bt : Bool) (j : Fin 8) :
    (packConfiguration p op rd br be bt).getLsbD j =
      if j = cfgReserved then false else if j = p.cfgR then rd else if j = p.cfgT then bt
      else if j = p.cfgE then be else if j = p.cfgB then br else if j = p.cfgS then op else false := by
  simp only [packConfiguration, getLsbD_setBit]
  simp

/-- A packed configuration is read back field by field (40_register_model R82, R83). -/
theorem configFields_packConfiguration {p : Params} (hp : p.cfgOk) (op rd br be bt : Bool) :
    configFields p (packConfiguration p op rd br be bt) = ⟨op, br, be, bt, rd⟩ := by
  obtain ⟨h, h'⟩ := hp
  simp only [Params.cfgBits, List.nodup_cons, List.mem_cons, not_or, List.not_mem_nil, or_false,
    not_false_eq_true] at h h'
  obtain ⟨⟨a1, a2, a3, a4⟩, ⟨b1, b2, b3⟩, ⟨c1, c2⟩, d1, -⟩ := h
  obtain ⟨e1, e2, e3, e4, e5⟩ := h'
  simp only [configFields, getLsbD_packConfiguration]
  simp [Ne.symm e1, Ne.symm e2, Ne.symm e3, Ne.symm e4, Ne.symm e5, *]

/-- The bits of a digit data byte (40_register_model R88). -/
theorem digitData_fields (dp : Bool) (q : BitVec 4) : (digitData dp q).extractLsb' 4 3 = 0 ∧
    digitPoint (digitData dp q) = dp ∧ digitValue (digitData dp q) = q := by
  revert dp q; decide

/-- A zero-extended slot is a digit byte without the point (41_command_encoder R109). -/
theorem digitData_false (q : BitVec 4) : q.setWidth 8 = digitData false q := by
  revert q; decide

end Sys2Proof.Machine
end

