-- ==== Sys2Proof/Laws/Requests.lean ====
section
/-! SUPPORT. The pure function `encode` over all requests: what its words are, and what a request does by its answer. -/

namespace Sys2Proof.Machine

/-- A request whose `encode` raises InvalidArgument is answered at once. -/
theorem exec_rejected {i : Instr} {s : State} (h : s.phase = .idle)
    (he : encodeRequest s.params i = .invalidArgument) : exec i s = .next (rejected s) := by
  rw [exec_eq_accept, he, accept_invalid h]
  rfl

/-- A request whose `encode` gives words is accepted with them. -/
theorem exec_accepted {i : Instr} {s : State} {ws : List CmdWord} (h : s.phase = .idle)
    (he : encodeRequest s.params i = .words ws) : exec i s = .next (accepted ws s) := by
  rw [exec_eq_accept, he, accept_words ws h]
  rfl

/-- Everything a request can do when it answers a next state. -/
theorem exec_next {i : Instr} {s t : State} (h : exec i s = .next t) : s.phase = .idle ∧
    ((encodeRequest s.params i = .invalidArgument ∧ t = rejected s) ∨
      ∃ ws, encodeRequest s.params i = .words ws ∧ t = accepted ws s) := by
  rw [exec_eq_accept] at h
  exact accept_next h

/-- The pending words of an accepted request are those of `encode`. -/
theorem exec_busy_words {i : Instr} {s t : State} (h : exec i s = .next t) (hb : t.phase = .busy) :
    encodeRequest s.params i = .words t.pending := by
  obtain ⟨hi, ⟨-, rfl⟩ | ⟨ws, hw, rfl⟩⟩ := exec_next h
  · simp [rejected, hi] at hb
  · exact hw

/-- The words of a number, by slot (41_command_encoder R109). -/
theorem numberWordsFrom_eq (p : Params) (pl : PlaneCode) (n : Nat) (slots : List (BitVec 4)) (i : Nat) :
    numberWordsFrom p pl n i slots =
      (List.range slots.length).map fun k => numberWord p pl n (i + k) (slots.getD k 0) := by
  induction slots generalizing i with
  | nil => rfl
  | cons a l ih =>
    rw [numberWordsFrom, ih, List.length_cons, List.range_succ_eq_map]
    simp [Nat.add_assoc, Nat.add_comm 1]

/-- A slot of an `n`-digit number goes to a digit index below 8 (41_command_encoder R109). -/
theorem digitOfSlot_le (order : DigitOrder) {n i : Nat} (hi : i < n) (hn : n ≤ 8) : digitOfSlot order n i ≤ 7 := by
  unfold digitOfSlot
  split <;> omega

/-- Taking apart the answer of `encode` for NUMBER. -/
theorem encodeNumber_words {p : Params} {pl : PlaneCode} {n : Nat} {v : Int} {ws : List CmdWord}
    (h : encodeNumber p pl n v = .words ws) : pl ≠ .pl3 ∧ 1 ≤ n ∧ n ≤ 8 ∧
      ∃ slots, decompose v n = some slots ∧ slots.length = n ∧ ws = numberWordsFrom p pl n 0 slots := by
  unfold encodeNumber at h
  split at h
  · simp at h
  · next hpl =>
    split at h
    · simp at h
    · next hn =>
      split at h
      · simp at h
      · next slots hs =>
        exact ⟨hpl, by omega, by omega, slots, hs, decompose_length (by omega) (by omega) hs,
          (EncodeResult.words.inj h).symm⟩

/-- Taking apart the answer of `encode` for DIGIT. -/
theorem encodeDigit_words {p : Params} {pl : PlaneCode} {dp : Bool} {index value : Nat} {ws : List CmdWord}
    (h : encodeDigit p pl dp index value = .words ws) : index ≤ 7 ∧ value ≤ 15 ∧ ∃ b, planeBase p pl = some b ∧
      ws = [cmd (b + BitVec.ofNat 8 index) (digitData dp (BitVec.ofNat 4 value))] := by
  unfold encodeDigit at h
  split at h
  · simp at h
  · next hok =>
    split at h
    · simp at h
    · next hv =>
      obtain ⟨hd, b, hb, e⟩ := resolve_ok hok
      rw [e] at h
      exact ⟨hd, by omega, b, hb, (EncodeResult.words.inj h).symm⟩

/-- Everything a request can send: one configuration word, one word to another control register, or digit words. -/
theorem encodeRequest_words {p : Params} {i : Instr} {ws : List CmdWord} (h : encodeRequest p i = .words ws) :
    (∃ op rd br be, ws = [cmd p.addrConfig (packConfiguration p op rd br be false)] ∧ (rd = true ↔ i = .clear)) ∨
    (∃ a d, ws = [cmd a d] ∧ i ≠ .clear ∧
      (a = p.addrDecode ∨ a = p.addrIntensity ∨ a = p.addrScanLimit ∨ a = p.addrTest)) ∨
    (i ≠ .clear ∧ 1 ≤ ws.length ∧ ws.length ≤ 8 ∧ ∀ w ∈ ws, ∃ pl b d dp q, planeBase p pl = some b ∧ d ≤ 7 ∧
      w = cmd (b + BitVec.ofNat 8 d) (digitData dp q)) := by
  cases i with
  | setblink mode =>
    simp only [encodeRequest, encodeSetblink] at h
    split at h
    · simp at h
    · exact .inl ⟨_, _, _, _, (EncodeResult.words.inj h).symm, by simp⟩
  | clear => exact .inl ⟨_, _, _, _, (EncodeResult.words.inj h).symm, by simp⟩
  | setdisp mode =>
    simp only [encodeRequest, encodeSetdisp] at h
    split at h
    · simp at h
    · exact .inr (.inl ⟨_, _, (EncodeResult.words.inj h).symm, by simp, by simp⟩)
  | setdigits n =>
    simp only [encodeRequest, encodeSetdigits] at h
    split at h
    · simp at h
    · exact .inr (.inl ⟨_, _, (EncodeResult.words.inj h).symm, by simp, by simp⟩)
  | setint level =>
    simp only [encodeRequest, encodeSetint] at h
    split at h
    · simp at h
    · exact .inr (.inl ⟨_, _, (EncodeResult.words.inj h).symm, by simp, by simp⟩)
  | setdecode mask =>
    simp only [encodeRequest, encodeSetdecode] at h
    split at h
    · simp at h
    · exact .inr (.inl ⟨_, _, (EncodeResult.words.inj h).symm, by simp, by simp⟩)
  | digit pl dp index value =>
    obtain ⟨hd, -, b, hb, rfl⟩ := encodeDigit_words h
    refine .inr (.inr ⟨by simp, by simp, by simp, ?_⟩)
    simp only [List.mem_singleton, forall_eq]
    exact ⟨pl, b, index, dp, _, hb, hd, rfl⟩
  | number pl n v =>
    obtain ⟨hpl, h1, h8, slots, -, hl, rfl⟩ := encodeNumber_words h
    rw [numberWordsFrom_eq, hl]
    refine .inr (.inr ⟨by simp, by simpa using h1, by simpa using h8, ?_⟩)
    intro w hw
    obtain ⟨k, hk, rfl⟩ := List.mem_map.1 hw
    obtain ⟨b, hb⟩ := planeBase_isSome p hpl
    have hd := digitOfSlot_le p.digitOrder (i := 0 + k) (n := n) (by simpa using hk) h8
    refine ⟨pl, b, _, false, slots.getD k 0, hb, hd, ?_⟩
    rw [numberWord, resolve_of_base hd hb, digitData_false]
  | reserved0 => simp [encodeRequest, encodeReserved] at h
  | reserved9 => simp [encodeRequest, encodeReserved] at h
  | reservedA => simp [encodeRequest, encodeReserved] at h
  | reservedB => simp [encodeRequest, encodeReserved] at h
  | reservedC => simp [encodeRequest, encodeReserved] at h
  | reservedD => simp [encodeRequest, encodeReserved] at h
  | reservedE => simp [encodeRequest, encodeReserved] at h
  | reservedF => simp [encodeRequest, encodeReserved] at h

end Sys2Proof.Machine
end

