-- ==== Sys2Proof/Tests/Slice0.lean ====
section
/-! SUPPORT. The model's own tests. Expected values are those of spec/95_test_vectors (S1 to S16, V1 to V66, tables 2.1 to
2.9) or are written out from the spec's encodings. The theorems named test_witness_ show that the hypotheses of the
statements can be met, clause by clause. -/

set_option maxRecDepth 4000

namespace Sys2Proof.Tests

open Sys2Proof Sys2Proof.Machine

/-- An `Idle` block with these inputs and transport outcomes to come. -/
def idleWith (inputs : List Input) (draws : List XferResult) : State :=
  { State.reset with inputs := inputs, draws := draws }

/-- A `Busy` block with these words to send, this count sent, and these inputs and outcomes to come. -/
def busyWith (pending : List CmdWord) (sent : BitVec 4) (inputs : List Input) (draws : List XferResult) : State :=
  { State.reset with phase := .busy, pending := pending, sent := sent, inputs := inputs, draws := draws }

/-- The alternative parameters of 95_test_vectors, program 5. -/
def altParams : Params := { defaultParams with decodeMaskMax := .maxFF, digitOrder := .msdAt0 }

/-- An `Idle` block with the alternative parameters. -/
def altIdle : State := { State.reset with params := altParams }

/-- The state after an outcome that is a next state. -/
def after (o : Host.Outcome State Fault Refusal) : Option State :=
  match o with
  | .next s => some s
  | .fault _ => none
  | .refused _ => none

/-! ### Decoding: words written out from 30_encoding R60 and R62 -/

-- OP 0001, PL 00, DP 0, X 0, A = 2, B = 0
theorem test_decode_setblink : decode 0x100000000200000000 = .setblink 2 := by decide
theorem test_decode_clear : decode 0x200000000000000000 = .clear := by decide
theorem test_decode_setdisp : decode 0x300000000100000000 = .setdisp 1 := by decide
theorem test_decode_setdigits : decode 0x40FFFFFFFF00000000 = .setdigits 0xFFFFFFFF := by decide
theorem test_decode_setint : decode 0x500000000F00000000 = .setint 15 := by decide
theorem test_decode_setdecode : decode 0x60000000FF00000000 = .setdecode 0xFF := by decide
-- OP 0111, PL 10, DP 1, X 0: the second hexadecimal digit is 1010
theorem test_decode_digit : decode 0x7A000000070000000F = .digit .both true 7 15 := by decide
theorem test_decode_digit_plane3 : decode 0x7C0000000000000000 = .digit .pl3 false 0 0 := by decide
-- OP 1000, PL 01, B = -42 in two's complement
theorem test_decode_number : decode 0x8400000003FFFFFFD6 = .number .p1 3 (-42) := by decide
theorem test_decode_number_min : decode 0x800000000880000000 = .number .p0 8 (-2147483648) := by decide
theorem test_decode_reserved0 : decode 0x000000000000000000 = .reserved0 := by decide
theorem test_decode_reserved9 : decode 0x900000000100000001 = .reserved9 := by decide
theorem test_decode_reservedA : decode 0xA00000000000000000 = .reservedA := by decide
theorem test_decode_reservedB : decode 0xB00000000000000000 = .reservedB := by decide
theorem test_decode_reservedC : decode 0xC00000000000000000 = .reservedC := by decide
theorem test_decode_reservedD : decode 0xD00000000000000000 = .reservedD := by decide
theorem test_decode_reservedE : decode 0xE00000000000000000 = .reservedE := by decide
theorem test_decode_reservedF : decode 0xF00000000000000000 = .reservedF := by decide
-- V6, V41, V55: ignored fields are dropped
theorem test_decode_ignored : decode 0x1E0000000212345678 = .setblink 2 ∧
    decode 0x750000000200000009 = .digit .p1 false 2 9 ∧ decode 0x82000000020000002A = .number .p0 2 42 := by decide
-- a request has 72 bits (30_encoding R70)
theorem test_decode_length : decodeTableWord 72 0x500000000800000000 = some (.setint 8) ∧
    decodeTableWord 80 0 = none ∧ decodeTableWord 72 (2 ^ 72) = none := by decide
theorem test_fetch_runs_first :
    (after (step (State.reset.withFetchWord 72 0x500000000800000000))).map (fun s => (s.pending, s.inputs)) =
      some ([0x0208], []) := by decide

/-! ### Well-formedness: one ill-formed term for each check -/

theorem test_illformed_setblink : (Instr.setblink (2 ^ 32)).wellFormed = false := by decide
theorem test_illformed_setdisp : (Instr.setdisp (2 ^ 32)).wellFormed = false := by decide
theorem test_illformed_setdigits : (Instr.setdigits (2 ^ 32)).wellFormed = false := by decide
theorem test_illformed_setint : (Instr.setint (2 ^ 32)).wellFormed = false := by decide
theorem test_illformed_setdecode : (Instr.setdecode (2 ^ 32)).wellFormed = false := by decide
theorem test_illformed_digit_index : (Instr.digit .p0 false (2 ^ 32) 0).wellFormed = false := by decide
theorem test_illformed_digit_value : (Instr.digit .p0 false 0 (2 ^ 32)).wellFormed = false := by decide
theorem test_illformed_number_count : (Instr.number .p0 (2 ^ 32) 0).wellFormed = false := by decide
theorem test_illformed_number_high : (Instr.number .p0 1 (2 ^ 31)).wellFormed = false := by decide
theorem test_illformed_number_low : (Instr.number .p0 1 (-2 ^ 31 - 1)).wellFormed = false := by decide
theorem test_illformed_params_block_range : ¬ Params.blocksOk { defaultParams with baseBoth := 0xF9 } := by decide
theorem test_illformed_params_blocks_meet : ¬ Params.blocksOk { defaultParams with baseP1 := 0x27 } := by decide
theorem test_illformed_params_control_equal : ¬ Params.controlOk { defaultParams with addrTest := 0x04 } := by decide
theorem test_illformed_params_control_in_block : ¬ Params.controlOk { defaultParams with addrTest := 0x47 } := by decide
theorem test_illformed_params_cfg_equal : ¬ Params.cfgOk { defaultParams with cfgR := 3 } := by decide
theorem test_illformed_params_cfg_reserved : ¬ Params.cfgOk { defaultParams with cfgS := 1 } := by decide

/-! ### The words of the requests (95_test_vectors 2.5) -/

-- V1, V2, V5
theorem test_setblink : encodeRequest defaultParams (decode 0x100000000000000000) = .words [0x0401] ∧
    encodeRequest defaultParams (decode 0x100000000100000000) = .words [0x0409] ∧
    encodeRequest defaultParams (decode 0x10FFFFFFFF00000000) = .invalidArgument := by decide
-- V8
theorem test_clear : encodeRequest defaultParams (decode 0x210000000500000000) = .words [0x0420] := by decide
-- V9, V11
theorem test_setdisp : encodeRequest defaultParams (decode 0x300000000000000000) = .words [0x0700] ∧
    encodeRequest defaultParams (decode 0x300000000200000000) = .invalidArgument := by decide
-- V12, V15, V16
theorem test_setdigits : encodeRequest defaultParams (decode 0x400000000000000000) = .invalidArgument ∧
    encodeRequest defaultParams (decode 0x400000000800000000) = .words [0x0307] ∧
    encodeRequest defaultParams (decode 0x400000000900000000) = .invalidArgument := by decide
-- V20, V21
theorem test_setint : encodeRequest defaultParams (decode 0x500000000F00000000) = .words [0x020F] ∧
    encodeRequest defaultParams (decode 0x500000001000000000) = .invalidArgument := by decide
-- V26, V28, V29, V30
theorem test_setdecode : encodeRequest defaultParams (.setdecode 8) = .invalidArgument ∧
    encodeRequest altParams (.setdecode 8) = .words [0x0108] ∧
    encodeRequest altParams (.setdecode 0xFF) = .words [0x01FF] ∧
    encodeRequest altParams (.setdecode 0x100) = .invalidArgument := by decide
-- V33, V35, V36, V37, V39
theorem test_digit : encodeRequest defaultParams (decode 0x74000000070000000F) = .words [0x470F] ∧
    encodeRequest defaultParams (decode 0x7A0000000000000000) = .words [0x6080] ∧
    encodeRequest defaultParams (decode 0x700000000800000000) = .invalidArgument ∧
    encodeRequest defaultParams (decode 0x700000000000000010) = .invalidArgument ∧
    encodeRequest defaultParams (decode 0x7C0000000000000000) = .invalidArgument := by decide
-- V48, V50, V51, V53, V54
theorem test_number : encodeRequest defaultParams (decode 0x8000000008FF676981) =
      .words [0x270A, 0x2609, 0x2509, 0x2409, 0x2309, 0x2209, 0x2109, 0x2009] ∧
    encodeRequest defaultParams (decode 0x8000000001FFFFFFFF) = .invalidArgument ∧
    encodeRequest defaultParams (decode 0x800000000880000000) = .invalidArgument ∧
    encodeRequest defaultParams (decode 0x800000000900000001) = .invalidArgument ∧
    encodeRequest defaultParams (decode 0x8C0000000200000001) = .invalidArgument := by decide
-- V56, V57
theorem test_number_order : encodeRequest altParams (.number .p0 4 1234) = .words [0x2001, 0x2102, 0x2203, 0x2304] ∧
    encodeRequest altParams (.number .both 2 (-7)) = .words [0x600A, 0x6107] := by decide

/-! ### Units (95_test_vectors 2.1, 2.2, 2.4, 2.7, 2.9) -/

theorem test_resolve : resolveDigitAddress defaultParams .p1 7 = ⟨true, 0x47⟩ ∧
    resolveDigitAddress defaultParams .both 0 = ⟨true, 0x60⟩ := by decide
theorem test_pack : packConfiguration defaultParams false true true false true = 0x34 ∧
    packConfiguration defaultParams true false false true true = 0x19 := by decide
theorem test_decompose : decompose 1234 6 = some [0, 0, 1, 2, 3, 4] ∧ decompose (-7) 3 = some [0xA, 0, 7] ∧
    decompose 0 1 = some [0] ∧ decompose (-10) 2 = none ∧ decompose 2147483647 8 = none := by decide
theorem test_font : fontLookup defaultParams 0x47 = ⟨0x47, true, 0x5E⟩ ∧ fontLookup defaultParams 0x5A = ⟨0x5A, true, 0x6D⟩ ∧
    fontLookup defaultParams 0x61 = ⟨0x61, false, 0x00⟩ := by decide
theorem test_response_words : respWord .ok 8 = 0x20 ∧ respWord .invalidArgument 0 = 0x01 ∧
    respWord .transportFailure 7 = 0x1E := by decide
-- table 2.9: the font and the segments of R151 for the digit 1 (segments b and c)
theorem test_segments : segmentLit (fontLookup defaultParams 0x31).pat .b = true ∧
    segmentLit (fontLookup defaultParams 0x31).pat .c = true ∧
    segmentLit (fontLookup defaultParams 0x31).pat .a = false := by decide

/-! ### Observation of the target (95_test_vectors 2.8) and the sequencer (2.6), one step each -/

/-- A target whose cells are partly known. -/
def someTarget : Target := { reg := [(4, 0x09)], p0 := [(0, 0x05), (3, 0x01)], p1 := [(3, 0x02)] }

theorem test_target_both : (someTarget.applyXfer defaultParams 0x6385 .ok).p0 = [(0, 0x05), (3, 0x85)] ∧
    (someTarget.applyXfer defaultParams 0x6385 .ok).p1 = [(3, 0x85)] := by decide
theorem test_target_reset_data : someTarget.applyXfer defaultParams 0x0420 .ok = { reg := [(4, 0x20)], p0 := [], p1 := [] } := by
  decide
theorem test_target_timing_reset : (someTarget.applyXfer defaultParams 0x0419 .ok).reg = [(4, 0x19)] ∧
    (someTarget.applyXfer defaultParams 0x0419 .ok).p0 = someTarget.p0 := by decide
theorem test_target_fail : someTarget.applyXfer defaultParams 0x0208 .fail = Target.unknown := by decide
-- NUMBER p0, 4, 1234 that fails at its second word
theorem test_send_fail : (after (step (busyWith [0x2202, 0x2103, 0x2004] 1 [] [.fail]))).map responses = some [0x06] ∧
    (after (step (busyWith [0x2202, 0x2103, 0x2004] 1 [] [.fail]))).map wordsSent = some [(0x2202, .fail)] := by decide
theorem test_complete : (after (step (busyWith [] 4 [] []))).map responses = some [0x10] ∧
    (after (step (busyWith [] 4 [] []))).map ready = some true := by decide
-- SETINT 16 at a block whose transport would fail: no transmission, the outcome stays unused
theorem test_invalid_sends_nothing :
    (after (step (idleWith [.request 0x500000001000000000] [.fail]))).map (fun s => (responses s, s.calls, s.draws)) =
      some ([0x01], [], [.fail]) := by decide

/-! ### Witnesses: the hypotheses of the statements can be met -/

/-- The reset state with another phase, words, count, inputs and outcomes is consistent when its counts are. -/
theorem busyWith_consistent (ws : List CmdWord) (n : BitVec 4) (ins : List Input) (ds : List XferResult)
    (h : 1 ≤ n.toNat + ws.length ∧ n.toNat + ws.length ≤ 8) : Consistent (busyWith ws n ins ds) :=
  ⟨rfl, nofun, fun _ => h, Target.unknown_wf _, rfl⟩

theorem idleWith_consistent (ins : List Input) (ds : List XferResult) : Consistent (idleWith ins ds) :=
  ⟨rfl, fun _ => ⟨rfl, rfl⟩, nofun, Target.unknown_wf _, rfl⟩

-- least and greatest count, success, failure, completion, acceptance
theorem test_witness_StepKeepsConsistent :
    (Consistent (busyWith [0x0208] 0 [] [.ok]) ∧ ∃ t, step (busyWith [0x0208] 0 [] [.ok]) = .next t) ∧
    (Consistent (busyWith [0x2009] 7 [] [.fail]) ∧ ∃ t, step (busyWith [0x2009] 7 [] [.fail]) = .next t) ∧
    (Consistent (busyWith [] 8 [] []) ∧ ∃ t, step (busyWith [] 8 [] []) = .next t) ∧
    (Consistent (idleWith [.request 0x500000000800000000] []) ∧
      ∃ t, step (idleWith [.request 0x500000000800000000] []) = .next t) :=
  ⟨⟨busyWith_consistent _ _ _ _ (by decide), _, rfl⟩, ⟨busyWith_consistent _ _ _ _ (by decide), _, rfl⟩,
    ⟨busyWith_consistent _ _ _ _ (by decide), _, rfl⟩, ⟨idleWith_consistent _ _, _, rfl⟩⟩

/-- A `Busy` block that has sent one word and has one to send. -/
def midway : State := { busyWith [0x0208] 1 [] [.ok] with trace := [.xfer 0x0701 .ok] }

theorem test_witness_StepKeepsAddressesMapped : midway.params.wellFormed ∧
    (∀ w ∈ midway.pending, emittable midway.params (cmdAddr w)) ∧
    (∀ w r, Event.xfer w r ∈ midway.trace → emittable midway.params (cmdAddr w)) ∧ ∃ t, step midway = .next t := by
  refine ⟨by decide, fun w h => ?_, fun w r h => ?_, _, rfl⟩
  · obtain rfl := List.mem_singleton.mp h
    exact .inr (.inl (by decide))
  · obtain ⟨rfl, -⟩ := Event.xfer.inj (List.mem_singleton.mp h)
    exact .inr (.inr (.inr (.inr (.inl (by decide)))))

theorem test_witness_StepKeepsParams : ∃ t, step altIdle = .next t := ⟨_, rfl⟩

theorem test_witness_DecodeOfEncode : (Instr.number .both 2 (-7)).wellFormed = true ∧
    (Instr.number .pl3 (2 ^ 32 - 1) (-2 ^ 31)).wellFormed = true ∧
    (Instr.number .p0 0 (2 ^ 31 - 1)).wellFormed = true ∧
    (Instr.digit .p0 true (2 ^ 32 - 1) (2 ^ 32 - 1)).wellFormed = true ∧ (Instr.setint (2 ^ 32 - 1)).wellFormed = true := by
  decide

/-- What IgnoredFieldsChangeNothing asks of two words. -/
abbrev agreeWhereUsed (w w' : ReqWord) : Prop :=
  reqOp w = reqOp w' ∧ (usesA (reqOp w) → reqA w = reqA w') ∧
  (usesPlB (reqOp w) → reqPl w = reqPl w' ∧ reqB w = reqB w') ∧ (reqOp w = 7 → reqDp w = reqDp w')

-- V3 and V6, V7 and V8, V41 and V55 beside the same without ignored bits, V59 and V66
theorem test_witness_IgnoredFieldsChangeNothing :
    agreeWhereUsed 0x100000000200000000 0x1E0000000212345678 ∧ agreeWhereUsed 0x200000000000000000 0x210000000500000000 ∧
    agreeWhereUsed 0x740000000200000009 0x750000000200000009 ∧ agreeWhereUsed 0x80000000020000002A 0x82000000020000002A ∧
    agreeWhereUsed 0x900000000000000000 0x900000000100000001 :=
  ⟨by decide, by decide, by decide, by decide, by decide⟩

theorem test_witness_OnlyReqWritesRawWords : assembleLine "CLEAR".toList = .ok 0x200000000000000000 ∧
    asmName "CLEAR".toList ≠ ".req".toList := by decide

-- both sides of index 7, and the plane code 3
theorem test_witness_DigitAddressDecoder : defaultParams.wellFormed ∧ (0x60 : Byte) ∈ defaultParams.bases ∧ 7 ≤ 7 ∧
    (resolveDigitAddress defaultParams .both 7).addr = 0x67 ∧ 8 > 7 ∧
    (resolveDigitAddress defaultParams .both 8).ok = false ∧ (resolveDigitAddress defaultParams .pl3 7).ok = false := by decide

theorem test_witness_DigitAddressesDistinct : defaultParams.wellFormed ∧ PlaneCode.p0 ≠ .pl3 ∧ PlaneCode.both ≠ .pl3 ∧
    (resolveDigitAddress defaultParams .p0 7).addr = (resolveDigitAddress defaultParams .p0 7).addr := by decide

theorem test_witness_ConfigurationPacker : defaultParams.cfgOk ∧ (1 : Fin 8) ∉ defaultParams.cfgBits ∧
    (6 : Fin 8) ∉ defaultParams.cfgBits ∧ (7 : Fin 8) ∉ defaultParams.cfgBits := by decide

theorem test_witness_PowerOfTen : ipow10 0 = some 1 ∧ ipow10 9 = some 1000000000 ∧ ipow10 10 = none := by decide

-- one slot and eight, both signs, both sides of each bound (95_test_vectors 2.4)
theorem test_witness_DecomposeFitsExactly : decompose 9 1 = some [9] ∧ decompose 10 1 = none ∧ decompose (-1) 1 = none ∧
    decompose (-9999999) 8 = some [0xA, 9, 9, 9, 9, 9, 9, 9] ∧ decompose (-10000000) 8 = none ∧
    decompose 99999999 8 = some [9, 9, 9, 9, 9, 9, 9, 9] ∧ decompose 100000000 8 = none := by decide

theorem test_witness_DecomposeSlots : (1000 : Int).natAbs < 10 ^ (4 - (if (1000 : Int) < 0 then 1 else 0)) ∧
    (-10 : Int).natAbs ≥ 10 ^ (2 - (if (-10 : Int) < 0 then 1 else 0)) := by decide

theorem test_witness_DecomposedNumberReadsBack : decompose (-42) 3 = some [0xA, 4, 2] := by decide

-- both ends of both ranges, and the four codes beside them
theorem test_witness_FontLookupTable :
    (∀ c ∈ [(0x30 : Byte), 0x39], 0x30 ≤ c.toNat ∧ c.toNat ≤ 0x39) ∧
    (∀ c ∈ [(0x41 : Byte), 0x5A], 0x41 ≤ c.toNat ∧ c.toNat ≤ 0x5A) ∧
    ∀ c ∈ [(0x2F : Byte), 0x3A, 0x40, 0x5B], ¬ (0x30 ≤ c.toNat ∧ c.toNat ≤ 0x39) ∧
      ¬ (0x41 ≤ c.toNat ∧ c.toNat ≤ 0x5A) := by decide

theorem test_witness_CodeBIndexTable : codebIndex 0x39 = ⟨true, 9⟩ ∧
    ∀ c ∈ [(0x65 : Byte), 0x41, 0x46, 0x3A, 0x2F], ¬ (0x30 ≤ c.toNat ∧ c.toNat ≤ 0x39) ∧
      c ∉ [0x2D, 0x45, 0x48, 0x4C, 0x50, (0x20 : Byte)] := by decide

theorem test_witness_WrittenBytesMean : encodeRequest defaultParams (.setdigits 8) = .words [0x0307] ∧
    encodeRequest defaultParams (.setdigits 1) = .words [0x0300] ∧
    encodeRequest defaultParams (.setint 15) = .words [0x020F] ∧
    0x07 ≤ decodeMaskLimit defaultParams.decodeMaskMax ∧ 0xFF ≤ decodeMaskLimit altParams.decodeMaskMax := by decide

-- the phase that the statements about requests ask for: SETBLINK, CLEAR, SETDISP, SETDIGITS, SETINT, SETDECODE, DIGIT,
-- NUMBER, the reserved rows, InvalidArgumentExactly and EncodeWordCounts
theorem test_witness_idle : State.reset.phase = .idle ∧ altIdle.phase = .idle := by decide

theorem test_witness_SetdecodeRequest : State.reset.params.decodeMaskMax = .max07 ∧ altIdle.params.decodeMaskMax = .maxFF := by
  decide

theorem test_witness_DigitRequest : planeBase State.reset.params .p0 = some 0x20 ∧ planeBase State.reset.params .p1 = some 0x40 ∧
    planeBase State.reset.params .both = some 0x60 ∧ 7 ≤ 7 ∧ 15 ≤ 15 ∧ (8 > 7 ∨ 16 > 15) := by decide

theorem test_witness_NumberRequest : planeBase State.reset.params .both = some 0x60 ∧
    decompose 8 1 = some [8] ∧ decompose 12345678 8 = some [1, 2, 3, 4, 5, 6, 7, 8] ∧ decompose 12345 4 = none := by decide

theorem test_witness_ReservedRequests : reservedOp (reqOp 0x000000000000000000) ∧ reservedOp (reqOp 0x900000000100000001) ∧
    reservedOp (reqOp 0xF00000000000000000) ∧ ¬ reservedOp (reqOp 0x8800000002FFFFFFF9) := by decide

theorem test_witness_InvalidArgumentExactly : invalidDue State.reset.params (.setint 16) ∧
    ¬ invalidDue State.reset.params (.setint 15) ∧ invalidDue State.reset.params (.setdigits 0) ∧
    ¬ invalidDue State.reset.params (.number .p0 8 99999999) ∧ invalidDue State.reset.params (.number .p0 9 1) ∧
    ¬ invalidDue State.reset.params .clear := by
  simp only [invalidDue]; decide

theorem test_witness_EmittedAddresses : ∃ t, exec (.digit .both true 7 15) State.reset = .next t ∧ t.phase = .busy ∧
    0x678F ∈ t.pending ∧ State.reset.params.wellFormed ∧ State.reset.params = defaultParams :=
  ⟨_, rfl, rfl, by decide, by decide, rfl⟩

theorem test_witness_ConfigurationWordBits : ∃ t, exec .clear State.reset = .next t ∧ t.phase = .busy ∧
    0x0420 ∈ t.pending ∧ cmdAddr 0x0420 = State.reset.params.addrConfig :=
  ⟨_, rfl, rfl, by decide, by decide⟩

theorem test_witness_DigitDataBytes :
    (∃ t, exec (.digit .p0 true 3 5) State.reset = .next t ∧ t.phase = .busy ∧ 0x2385 ∈ t.pending) ∧
    ∃ t, exec (.number .p1 3 (-42)) State.reset = .next t ∧ t.phase = .busy ∧ 0x420A ∈ t.pending :=
  ⟨⟨_, rfl, rfl, by decide⟩, _, rfl, rfl, by decide⟩

theorem test_witness_BusyHasNoMoveForRequests : (busyWith [0x0208] 0 [] []).phase = .busy := by decide

-- a rejected and an accepted request
theorem test_witness_RequestFrame : (∃ t, exec (.setint 16) State.reset = .next t ∧ t.phase = .idle) ∧
    ∃ t, exec (.setint 8) State.reset = .next t ∧ t.phase = .busy :=
  ⟨⟨_, rfl, rfl⟩, _, rfl, rfl⟩

theorem test_witness_StepRunsDecodedRequest :
    ((idleWith [.request 0x500000000800000000, .quiet] []).phase = .idle ∧
      (idleWith [.request 0x500000000800000000, .quiet] []).inputs = .request 0x500000000800000000 :: [.quiet]) ∧
    (busyWith [] 1 [.requestNow 0x200000000000000000] []).inputs = .requestNow 0x200000000000000000 :: [] := by decide

theorem test_witness_WaitingRequestIsHeld : (busyWith [0x0208] 0 [.request 0x200000000000000000] [.ok]).phase = .busy ∧
    (busyWith [0x0208] 0 [.request 0x200000000000000000] [.ok]).inputs = .request 0x200000000000000000 :: [] := by decide

-- with nothing presented, with a request waiting, and with a quiet step; the listed outcomes, and none listed
theorem test_witness_SendOkStep : undisturbedFor 1 (busyWith [0x0208, 0x0701] 7 [] [.ok]).inputs ∧
    undisturbedFor 1 (busyWith [0x0208] 0 [.request 0, .reset] [.ok]).inputs ∧
    undisturbedFor 1 (busyWith [0x0208] 0 [.quiet, .reset] [.ok]).inputs ∧
    (busyWith [0x0208] 0 [.quiet, .reset] [.ok]).phase = .busy ∧
    (busyWith [0x0208] 0 [.quiet, .reset] [.ok]).pending = 0x0208 :: [] ∧
    nextOutcome (busyWith [0x0208] 0 [.quiet, .reset] [.ok]) = .ok ∧ (busyWith [0x0208] 0 [] []).draws = [] :=
  ⟨trivial, trivial, trivial, rfl, rfl, rfl, rfl⟩

theorem test_witness_SendFailStep : undisturbedFor 1 (busyWith [0x0208] 0 [.quiet] [.fail]).inputs ∧
    (busyWith [0x0208] 0 [.quiet] [.fail]).phase = .busy ∧
    (busyWith [0x0208] 0 [.quiet] [.fail]).pending = 0x0208 :: [] ∧
    nextOutcome (busyWith [0x0208] 0 [.quiet] [.fail]) = .fail :=
  ⟨trivial, rfl, rfl, rfl⟩

theorem test_witness_CompleteStep : undisturbedFor 1 (busyWith [] 8 [.quiet] []).inputs ∧
    (busyWith [] 8 [.quiet] []).phase = .busy ∧ (busyWith [] 8 [.quiet] []).pending = [] :=
  ⟨trivial, rfl, rfl⟩

-- a quiet step goes off the inputs, and the sequencer moves; a waiting request stays
theorem test_quiet_while_busy :
    (after (step (busyWith [0x0208] 0 [.quiet, .reset] [.ok]))).map (fun s => (s.inputs, wordsSent s)) =
      some ([.reset], [(0x0208, .ok)]) ∧
    (after (step (busyWith [] 1 [.request 0, .reset] []))).map (fun s => (s.inputs, responses s)) =
      some ([.request 0, .reset], [0x04]) := by decide

theorem test_witness_ResetWhileBusy : (busyWith [0x0208] 0 [.reset] []).phase = .busy ∧
    (busyWith [0x0208] 0 [.reset] []).inputs = .reset :: [] := by decide

theorem test_witness_ResetWhileIdle : (idleWith [.reset] []).phase = .idle ∧ (idleWith [.reset] []).inputs = .reset :: [] := by
  decide

theorem test_witness_FontQueryChangesNothing :
    (busyWith [0x0208] 0 [.fontQuery 0x41, .quiet] []).inputs = .fontQuery 0x41 :: [.quiet] := by decide

theorem test_witness_IdleBlockWaits : (State.reset.phase = .idle ∧ State.reset.inputs = []) ∧
    (idleWith [.quiet] []).phase = .idle ∧ (idleWith [.quiet] []).inputs = .quiet :: [] := by decide

-- the longest wait: eight words to send, with quiet steps and then a waiting request
theorem test_witness_IdleWithinNineSteps :
    Consistent (busyWith (List.replicate 8 0x2009) 0 [.quiet, .quiet, .request 0] []) ∧
    (busyWith (List.replicate 8 0x2009) 0 [.quiet, .quiet, .request 0] []).phase = .busy ∧
    undisturbedFor 9 (busyWith (List.replicate 8 0x2009) 0 [.quiet, .quiet, .request 0] []).inputs :=
  ⟨busyWith_consistent _ _ _ _ (by decide), rfl, trivial⟩

/-- NUMBER both, 2, -7 presented to an `Idle` block, with these outcomes. -/
def minusSeven (draws : List XferResult) : State := idleWith [.request 0x8800000002FFFFFFF9] draws

theorem test_witness_RequestRunsToOk : (minusSeven [.ok, .ok]).phase = .idle ∧
    (minusSeven [.ok, .ok]).inputs = .request 0x8800000002FFFFFFF9 :: [] ∧
    encodeRequest (minusSeven [.ok, .ok]).params (decode 0x8800000002FFFFFFF9) = .words [0x610A, 0x6007] ∧
    (minusSeven [.ok, .ok]).draws = List.replicate 2 .ok ++ [] ∧
    undisturbedFor 3 [] ∧ undisturbedFor 3 [.quiet, .quiet, .quiet, .reset] :=
  ⟨by decide, by decide, by decide, by decide, trivial, trivial⟩

-- a failure at the first word and one at the last
theorem test_witness_RequestStopsAtFailure :
    ([0x610A, 0x6007] : List CmdWord)[0]? = some 0x610A ∧ (minusSeven [.fail]).draws = List.replicate 0 .ok ++ .fail :: [] ∧
    ([0x610A, 0x6007] : List CmdWord)[1]? = some 0x6007 ∧
    (minusSeven [.ok, .fail]).draws = List.replicate 1 .ok ++ .fail :: [] ∧
    encodeRequest (minusSeven [.ok, .fail]).params (decode 0x8800000002FFFFFFF9) = .words [0x610A, 0x6007] ∧
    (minusSeven [.ok, .fail]).phase = .idle ∧ undisturbedFor 2 [] ∧ undisturbedFor 1 [.quiet, .reset] :=
  ⟨rfl, rfl, rfl, rfl, by decide, rfl, trivial, trivial⟩

theorem test_witness_ResponsesAreLegal : Consistent (busyWith [0x2009] 7 [] [.fail]) ∧
    (after (step (busyWith [0x2009] 7 [] [.fail]))).map responses = some [0x1E] :=
  ⟨busyWith_consistent _ _ _ _ (by decide), by decide⟩

-- outside a reset while `Busy`: a successful and a failed transmission
theorem test_witness_TargetFollowsTrace : (∃ t, step (busyWith [0x0208] 0 [] [.ok]) = .next t) ∧
    ¬ ((busyWith [0x0208] 0 [] [.ok]).phase = .busy ∧ ∃ rest, (busyWith [0x0208] 0 [] [.ok]).inputs = .reset :: rest) ∧
    ∃ t, step (busyWith [0x0208] 0 [] [.fail]) = .next t :=
  ⟨⟨_, rfl⟩, fun ⟨_, _, h⟩ => by simp [busyWith] at h, _, rfl⟩

-- a digit word of each plane, a control word, a word that resets data
theorem test_witness_TransmissionCells : defaultParams.wellFormed ∧
    (cmdAddr 0x2785).toNat = defaultParams.baseP0.toNat + 7 ∧ (cmdAddr 0x4000).toNat = defaultParams.baseP1.toNat + 0 ∧
    (cmdAddr 0x6385).toNat = defaultParams.baseBoth.toNat + 3 ∧
    (∀ b ∈ defaultParams.bases, ¬ inBlock b (cmdAddr 0x0208)) ∧ resetsData defaultParams 0x0420 = true := by decide

theorem test_witness_RepeatedWordIsIdempotent : Target.unknown.wf defaultParams := Target.unknown_wf _

theorem test_witness_OneBracketPerStep : (∃ t, step (busyWith [0x0208] 0 [] [.ok]) = .next t ∧ t.calls.length = 3) ∧
    ∃ t, step (busyWith [] 1 [] []) = .next t ∧ t.calls.length = 0 :=
  ⟨⟨_, rfl, rfl⟩, _, rfl, rfl⟩

theorem test_witness_ConfigurationRewrittenWhole : defaultParams.wellFormed ∧ blinkFields 0 = some (false, false) ∧
    blinkFields 2 = some (true, true) ∧ blinkFields 3 = none ∧ (1 : Fin 8) ∉ defaultParams.cfgBits ∧
    (6 : Fin 8) ∉ defaultParams.cfgBits := by decide

-- table 2.8's target with a decode mask: position 0 decoded, position 3 raw
theorem test_witness_DecodeCoverage : defaultParams.decodeMaskMax = .max07 ∧
    encodeRequest defaultParams (.setdecode 7) = .words [0x0107] ∧ (3 : Nat) ≤ (3 : Fin 8).val ∧ Nat.testBit 7 2 = true ∧
    encodeRequest defaultParams (.digit .p0 true 2 5) = .words [0x2285] ∧
    encodeRequest defaultParams (.digit .p1 false 0 9) = .words [0x4009] ∧
    encodeRequest defaultParams (.digit .both false 1 8) = .words [0x6108] ∧ Nat.testBit 7 0 = true ∧ Nat.testBit 7 1 = true ∧
    writesPlane .p0 false = true ∧ writesPlane .p1 true = true ∧ writesPlane .both false = true ∧
    writesPlane .both true = true ∧
    (someTarget.applyXfer defaultParams 0x0107 .ok).digitLook defaultParams false 0 = some (.codeB 0x35 false) ∧
    (someTarget.applyXfer defaultParams 0x0107 .ok).digitLook defaultParams true 3 = some (.segments 0x02 false) := by
  decide

-- both sides: a request presented without waiting to a `Busy` block, and to an `Idle` one
theorem test_witness_StepsStopOnlyOnBreach :
    step (busyWith [] 1 [.requestNow 0x200000000000000000] []) = .refused .requestWhileBusy ∧
    ∃ t, step (idleWith [.requestNow 0x200000000000000000] []) = .next t :=
  ⟨rfl, _, rfl⟩

end Sys2Proof.Tests
end

/-! PROOFS. The family of 10_state.md: what reset and a step leave of the block's state, the four atomic steps of R28, and
the bound of R31. -/

namespace Sys2Proof.Machine

/-! ### What each operation keeps consistent -/

/-- A request that is answered with words is answered with 1 to 8 of them (41_command_encoder R101). -/
theorem encodeRequest_words_length {p : Params} {i : Instr} {ws : List CmdWord} (h : encodeRequest p i = .words ws) :
    1 ≤ ws.length ∧ ws.length ≤ 8 := by
  rcases encodeRequest_words h with ⟨_, _, _, _, rfl, -⟩ | ⟨_, _, rfl, -, -⟩ | ⟨-, h1, h8, -⟩
  · simp
  · simp
  · exact ⟨h1, h8⟩

namespace Consistent

variable {s t : State}

/-- The inputs still to come are no part of the invariant. -/
theorem withInputs (h : Consistent s) (ins : List Input) : Consistent { s with inputs := ins } := { h with }

theorem respond (h : Consistent s) (st : Status) (n : BitVec 4) : Consistent (respond st n s) := { h with }

theorem queryFont (h : Consistent s) (c : Byte) : Consistent (queryFont c s) := { h with }

theorem toIdle (h : Consistent s) : Consistent (toIdle s) :=
  { h with
    idleEmpty := fun _ => ⟨rfl, rfl⟩
    busyBound := nofun }

theorem complete (h : Consistent s) : Consistent (complete s) := (h.respond .ok s.sent).toIdle

theorem raiseTransportFailure (h : Consistent s) : Consistent (raiseTransportFailure s) :=
  (h.respond .transportFailure s.sent).toIdle

theorem accepted (h : Consistent s) {ws : List CmdWord} (h1 : 1 ≤ ws.length) (h8 : ws.length ≤ 8) :
    Consistent (accepted ws s) :=
  { h with
    idleEmpty := nofun
    busyBound := fun _ => by simpa [Machine.accepted] using ⟨h1, h8⟩ }

/-- A request that is taken keeps the invariant, rejected or accepted. -/
theorem exec (h : Consistent s) {i : Instr} (he : exec i s = .next t) : Consistent t := by
  obtain ⟨-, ⟨-, rfl⟩ | ⟨ws, hw, rfl⟩⟩ := exec_next he
  · exact h.respond .invalidArgument 0
  · obtain ⟨h1, h8⟩ := encodeRequest_words_length hw
    exact h.accepted h1 h8

/-- One bracketed transmission: select is released, the cells stay canonical, and one whole bracket follows. -/
theorem xfer (h : Consistent s) (w : CmdWord) : Consistent (xfer w s) where
  selReleased := xfer_sel s w
  idleEmpty := by simpa using h.idleEmpty
  busyBound := by simpa using h.busyBound
  targetWf := by simpa using Target.applyXfer_wf h.targetWf w (nextOutcome s)
  callsBracketed := by simpa using bracketed_append h.callsBracketed (cmdAddr w) (cmdData w)

/-- Counting one word moves it from the words to send to the words sent; the count, at most 8, does not wrap. -/
theorem countWord (h : Consistent s) {w : CmdWord} {rest : List CmdWord} (hb : s.phase = .busy)
    (hp : s.pending = w :: rest) : Consistent { s with pending := rest, sent := s.sent + 1 } := by
  have hn := h.busyBound hb
  rw [hp, List.length_cons] at hn
  have hs : (s.sent + 1).toNat = s.sent.toNat + 1 := by
    rw [BitVec.toNat_add, show (1 : BitVec 4).toNat = 1 from rfl]
    omega
  exact { h with
    idleEmpty := fun hi => by simp [hb] at hi
    busyBound := fun _ => by simp only [hs]; omega }

/-- The block's own step keeps the invariant. -/
theorem advance (h : Consistent s) : Consistent (advance s) := by
  rcases advance_cases s with ⟨-, e⟩ | ⟨-, -, e⟩ | ⟨w, rest, hb, hp, -, e⟩ | ⟨w, rest, -, -, -, e⟩ <;> rw [e]
  · exact h
  · exact h.complete
  · have hx := (h.xfer w).countWord (w := w) (rest := rest) (by simpa using hb) (by simpa using hp)
    rwa [xfer_sent] at hx
  · exact (h.xfer w).raiseTransportFailure

/-- A reset keeps the invariant: in `Idle` the cells stay, in `Busy` they become unknown. -/
theorem resetBlock (h : Consistent s) : Consistent (resetBlock s) where
  selReleased := resetBlock_sel s
  idleEmpty := by simp
  busyBound := by simp
  targetWf := by
    rw [resetBlock_params]
    cases hp : s.phase with
    | idle => rw [resetBlock_target_idle s hp]; exact h.targetWf
    | busy => rw [resetBlock_target_busy s hp]; exact Target.unknown_wf _
  callsBracketed := by simpa using h.callsBracketed

end Consistent

/-- Settles O3, by the four things a step can do. -/
theorem stepKeepsConsistent : Obligations.StepKeepsConsistent := by
  intro s t h hs
  rcases step_cases hs with ⟨i, rest, -, he⟩ | ⟨ins, rfl⟩ | ⟨rest, -, rfl⟩ | ⟨c, rest, -, rfl⟩
  · exact (h.withInputs rest).exec he
  · exact (h.withInputs ins).advance
  · exact (h.withInputs rest).resetBlock
  · exact (h.withInputs rest).queryFont c

/-! ### Parameters and the frame of a request -/

@[simp] theorem advance_params (s : State) : (advance s).params = s.params := by
  rcases advance_cases s with ⟨-, e⟩ | ⟨-, -, e⟩ | ⟨w, rest, -, -, -, e⟩ | ⟨w, rest, -, -, -, e⟩ <;> simp [e]

theorem exec_params {i : Instr} {s t : State} (h : exec i s = .next t) : t.params = s.params := by
  obtain ⟨-, ⟨-, rfl⟩ | ⟨ws, -, rfl⟩⟩ := exec_next h <;> rfl

/-- Settles O5, by the four things a step can do. -/
theorem stepKeepsParams : Obligations.StepKeepsParams := by
  intro s t hs
  rcases step_cases hs with ⟨i, rest, -, he⟩ | ⟨ins, rfl⟩ | ⟨rest, -, rfl⟩ | ⟨c, rest, -, rfl⟩
  · exact (exec_params he :)
  · exact advance_params _
  · exact resetBlock_params _
  · exact queryFont_params _ c

/-- Settles O40: a next state of `exec` is `rejected s` or `accepted ws s`, and both are named by their fields. -/
theorem requestFrame : Obligations.RequestFrame := by
  intro i s t h
  obtain ⟨hidle, ⟨-, rfl⟩ | ⟨ws, -, rfl⟩⟩ := exec_next h
  · simp [rejected, hidle]
  · simp [accepted]

/-! ### The four atomic steps -/

/-- Settles O43: undisturbed, the block makes its own step, which sends the word and counts it. -/
theorem sendOkStep : Obligations.SendOkStep := by
  refine ⟨fun s r more => nextOutcome_cons, fun s => nextOutcome_nil, fun s w rest hi hb hp ho => ?_⟩
  rw [step_undisturbed hi hb, advance_send hb hp, sendWord_ok w rest ho, xfer_eq, ho]

/-- Settles O44: the same step with the other outcome ends the request. -/
theorem sendFailStep : Obligations.SendFailStep := by
  intro s w rest hi hb hp ho
  rw [step_undisturbed hi hb, advance_send hb hp, sendWord_fail w rest ho, xfer_eq, ho]
  simp [raiseTransportFailure, respond, toIdle, Target.applyXfer]

/-- Settles O45: with nothing pending the block's own step is `complete`. -/
theorem completeStep : Obligations.CompleteStep := by
  intro s hi hb hp
  rw [step_undisturbed hi hb, advance_complete hb hp]
  simp [complete, respond, toIdle, hp]

/-! ### The bound of R31 -/

/-- With a word to send, an undisturbed step either ends the request or takes that word off. -/
theorem step_send {s : State} {w : CmdWord} {rest : List CmdWord} (hi : undisturbedFor 1 s.inputs)
    (hb : s.phase = .busy) (hp : s.pending = w :: rest) :
    ∃ t, step s = .next t ∧
      (t.phase = .idle ∨ t.phase = .busy ∧ t.pending = rest ∧ t.inputs = dropQuiets 1 s.inputs) := by
  refine ⟨_, step_undisturbed hi hb, ?_⟩
  rw [advance_send hb hp]
  cases ho : nextOutcome s with
  | fail => rw [sendWord_fail w rest ho]; exact .inl rfl
  | ok => rw [sendWord_ok w rest ho]; exact .inr ⟨(xfer_phase s w).trans hb, rfl, rfl⟩

/-- The block is `Idle` after at most one step more than it has words to send: every Send-ok takes one word off, and
Send-fail and Complete end the request. -/
theorem run_busy_reaches_idle {s : State} {ws : List CmdWord} (hb : s.phase = .busy) (hp : s.pending = ws)
    (hi : undisturbedFor (ws.length + 1) s.inputs) :
    ∃ k t, k ≤ ws.length + 1 ∧ run k s = .next t ∧ t.phase = .idle := by
  induction ws generalizing s with
  | nil =>
    have hs := step_undisturbed hi hb
    rw [advance_complete hb hp] at hs
    exact ⟨1, _, by simp, run_succ hs, rfl⟩
  | cons w rest ih =>
    obtain ⟨h1, hrest⟩ := undisturbedFor_succ hi
    obtain ⟨u, hs, hidle | ⟨hbusy, hpend, hins⟩⟩ := step_send h1 hb hp
    · exact ⟨1, u, by omega, run_succ hs, hidle⟩
    · obtain ⟨k, t, hk, hrun, ht⟩ := ih hbusy hpend (hins ▸ hrest)
      exact ⟨k + 1, t, Nat.succ_le_succ hk, (run_succ hs).trans hrun, ht⟩

/-- Settles O50: a consistent `Busy` block has at most 8 words to send. -/
theorem idleWithinNineSteps : Obligations.IdleWithinNineSteps := by
  intro s h hb hi
  have hlen : s.pending.length + 1 ≤ 9 := by have := h.busyBound hb; omega
  rw [← Nat.add_sub_cancel' hlen] at hi
  obtain ⟨k, t, hk, hrun, ht⟩ := run_busy_reaches_idle hb rfl (undisturbedFor_add hi).1
  exact ⟨k, t, hk.trans hlen, hrun, ht⟩

/-! ### Reset -/

/-- Settles O1, by the reset values themselves. -/
theorem resetLeavesBlockIdle : Obligations.ResetLeavesBlockIdle := ⟨rfl, rfl, rfl, rfl⟩

/-- The default parameters meet the constraints of 00_scope R8. -/
theorem defaultParams_wellFormed : defaultParams.wellFormed := by decide

/-- Settles O2: in the reset state nothing is pending, no cell is known and no call was made. -/
theorem resetIsConsistent : Obligations.ResetIsConsistent :=
  ⟨⟨rfl, fun _ => ⟨rfl, rfl⟩, nofun, Target.unknown_wf _, rfl⟩, defaultParams_wellFormed⟩

/-! ### Which move a step makes -/

theorem ready_iff (s : State) : ready s = true ↔ s.phase = .idle := by
  simp [ready]

/-- While `Busy` the model has no move for a request (10_state R29). -/
theorem exec_busy (i : Instr) {s : State} (h : s.phase = .busy) : exec i s = .refused .requestWhileBusy := by
  rw [exec_eq_accept, accept_busy _ h]

/-- Settles O39: every request is an `accept`, which has no move in `Busy`. -/
theorem busyHasNoMoveForRequests : Obligations.BusyHasNoMoveForRequests :=
  ⟨ready_iff, fun _ i h => exec_busy i h⟩

section
variable {s : State} {w : ReqWord} {rest : List Input}

/-- A waiting request is taken by an `Idle` block. -/
theorem step_request (hb : s.phase = .idle) (hi : s.inputs = .request w :: rest) :
    step s = exec (decode w) { s with inputs := rest } := by
  simp [step, nextMove, hi, hb]

/-- A request presented without waiting is run in either phase. -/
theorem step_requestNow (hi : s.inputs = .requestNow w :: rest) :
    step s = exec (decode w) { s with inputs := rest } := by
  simp [step, nextMove, hi]

/-- With no input the block makes its own step. -/
theorem step_noInput (hi : s.inputs = []) : step s = .next (advance s) := by
  simp [step, nextMove, hi]

/-- With a quiet input the block makes its own step, and the input goes off the list. -/
theorem step_quiet (hi : s.inputs = .quiet :: rest) : step s = .next (advance { s with inputs := rest }) := by
  simp [step, nextMove, hi]

end

/-- Settles O41; `withFetchWord` makes the block `Idle` with the request next, so the last clause is the first one. -/
theorem stepRunsDecodedRequest : Obligations.StepRunsDecodedRequest :=
  ⟨fun _ _ _ => step_request, fun _ _ _ => step_requestNow,
    fun s _ w => step_request (s := placeRequest (BitVec.ofNat 72 w) s) rfl rfl⟩

/-- Settles O42: the block's own step does not read the inputs, so the waiting request is only carried along. -/
theorem waitingRequestIsHeld : Obligations.WaitingRequestIsHeld := by
  intro s w rest hb hi
  have hs := step_undisturbed (s := s) (by simp [hi, undisturbedFor]) hb
  rw [hi, dropQuiets] at hs
  refine ⟨_, _, hs, step_noInput rfl, ?_⟩
  rw [advance_inputs s [], hi]

/-- Settles O49: the own step of an `Idle` block is the identity. -/
theorem idleBlockWaits : Obligations.IdleBlockWaits := by
  refine ⟨fun s hp hi => ?_, fun s rest hp hi => ?_⟩
  · rw [step_noInput hi, advance_idle hp]
  · rw [step_quiet hi, advance_inputs, advance_idle hp]

end Sys2Proof.Machine

/-! PROOFS. The family of 20_memory.md: the order on the wire (R42), the cells one word changes (R44, R45), the
observation as a function of the recorded events (R45), and the addresses that are ever sent (R46, R47). -/

namespace Sys2Proof.Machine

/-! ### The order on the wire -/

theorem getLsbD_cmdAddr (w : CmdWord) {k : Nat} (hk : k < 8) : (cmdAddr w).getLsbD k = w.getLsbD (8 + k) := by
  simp [cmdAddr, hk]

theorem getLsbD_cmdData (w : CmdWord) {k : Nat} (hk : k < 8) : (cmdData w).getLsbD k = w.getLsbD k := by
  simp [cmdData, hk]

/-- The first eight bits on the wire are the address byte, the other eight the data byte (20_memory R42). -/
theorem wireBits_eq_bytes (w : CmdWord) : wireBits w =
    ((List.range 8).map fun k => (cmdAddr w).getLsbD (7 - k)) ++
      (List.range 8).map fun k => (cmdData w).getLsbD (7 - k) := by
  rw [wireBits, List.range_add (n := 8) (m := 8), List.map_append, List.map_map]
  congr 1 <;> refine List.map_congr_left fun k hk => ?_
  · have hk := List.mem_range.1 hk
    rw [getLsbD_cmdAddr w (by omega)]
    congr 1
    omega
  · rw [getLsbD_cmdData w (by omega), Function.comp_apply]
    congr 1
    omega

/-- Settles O24: `wireBits` lists its sixteen bits, and each byte's bits are bits of the word. -/
theorem bitOrderOnTheWire : Obligations.BitOrderOnTheWire := fun w => ⟨rfl, wireBits_eq_bytes w⟩

/-! ### The cells one word changes -/

/-- Everything a successful word stores, by the block its address lies in; the first block that holds it counts. -/
theorem Target.store_cases (p : Params) (t : Target) (a d : Byte) :
    (inBlock p.baseP0 a ∧ t.store p a d = { t with p0 := t.p0.write (a.toNat - p.baseP0.toNat) d }) ∨
    (¬ inBlock p.baseP0 a ∧ inBlock p.baseP1 a ∧
      t.store p a d = { t with p1 := t.p1.write (a.toNat - p.baseP1.toNat) d }) ∨
    (¬ inBlock p.baseP0 a ∧ ¬ inBlock p.baseP1 a ∧ inBlock p.baseBoth a ∧ t.store p a d =
      { t with p0 := t.p0.write (a.toNat - p.baseBoth.toNat) d, p1 := t.p1.write (a.toNat - p.baseBoth.toNat) d }) ∨
    ((∀ b ∈ p.bases, ¬ inBlock b a) ∧ t.store p a d = { t with reg := t.reg.write a.toNat d }) := by
  by_cases h0 : inBlock p.baseP0 a
  · exact .inl ⟨h0, if_pos h0⟩
  by_cases h1 : inBlock p.baseP1 a
  · exact .inr (.inl ⟨h0, h1, by rw [store, if_neg h0, if_pos h1]⟩)
  by_cases h2 : inBlock p.baseBoth a
  · exact .inr (.inr (.inl ⟨h0, h1, h2, by rw [store, if_neg h0, if_neg h1, if_pos h2]⟩))
  · refine .inr (.inr (.inr ⟨?_, by rw [store, if_neg h0, if_neg h1, if_neg h2]⟩))
    simp only [Params.bases, List.forall_mem_cons]
    exact ⟨h0, h1, h2, nofun⟩

/-- The three digit blocks are apart (00_scope R8 (1)). -/
theorem blocks_apart {p : Params} (hp : p.blocksOk) :
    (p.baseP0.toNat + 8 ≤ p.baseP1.toNat ∨ p.baseP1.toNat + 8 ≤ p.baseP0.toNat) ∧
    (p.baseP0.toNat + 8 ≤ p.baseBoth.toNat ∨ p.baseBoth.toNat + 8 ≤ p.baseP0.toNat) ∧
    (p.baseP1.toNat + 8 ≤ p.baseBoth.toNat ∨ p.baseBoth.toNat + 8 ≤ p.baseP1.toNat) := by
  have h := hp.2
  simp only [Params.bases, List.pairwise_cons, List.mem_cons, forall_eq_or_imp] at h
  obtain ⟨⟨h01, h02, -⟩, ⟨h12, -⟩, -⟩ := h
  exact ⟨h01, h02, h12⟩

section
variable {p : Params} (t : Target) (a d : Byte)

/-- A digit cell of P0 after a store: written through its own block or through the both block. -/
theorem Target.store_p0_read (hp : p.blocksOk) {k : Nat} (hk : k ≤ 7) : (t.store p a d).p0.read k =
    if a.toNat = p.baseP0.toNat + k ∨ a.toNat = p.baseBoth.toNat + k then some d else t.p0.read k := by
  obtain ⟨h01, h02, h12⟩ := blocks_apart hp
  rcases t.store_cases p a d with ⟨h, e⟩ | ⟨-, h, e⟩ | ⟨-, -, h, e⟩ | ⟨h, e⟩ <;> rw [e]
  · rw [Memory.read_write]; exact if_congr (by omega) rfl rfl
  · exact (if_neg (by omega)).symm
  · rw [Memory.read_write]; exact if_congr (by omega) rfl rfl
  · simp only [Params.bases, List.forall_mem_cons] at h
    exact (if_neg (by omega)).symm

/-- A digit cell of P1 after a store: written through its own block or through the both block. -/
theorem Target.store_p1_read (hp : p.blocksOk) {k : Nat} (hk : k ≤ 7) : (t.store p a d).p1.read k =
    if a.toNat = p.baseP1.toNat + k ∨ a.toNat = p.baseBoth.toNat + k then some d else t.p1.read k := by
  obtain ⟨h01, h02, h12⟩ := blocks_apart hp
  rcases t.store_cases p a d with ⟨h, e⟩ | ⟨-, h, e⟩ | ⟨-, -, h, e⟩ | ⟨h, e⟩ <;> rw [e]
  · exact (if_neg (by omega)).symm
  · rw [Memory.read_write]; exact if_congr (by omega) rfl rfl
  · rw [Memory.read_write]; exact if_congr (by omega) rfl rfl
  · simp only [Params.bases, List.forall_mem_cons] at h
    exact (if_neg (by omega)).symm

/-- A control cell after a store: written only by its own address, and only outside the digit blocks. -/
theorem Target.store_reg_read (k : Nat) : (t.store p a d).reg.read k =
    if k = a.toNat ∧ ∀ b ∈ p.bases, ¬ inBlock b a then some d else t.reg.read k := by
  rcases t.store_cases p a d with ⟨h, e⟩ | ⟨-, h, e⟩ | ⟨-, -, h, e⟩ | ⟨h, e⟩ <;> rw [e]
  · exact (if_neg fun hb => hb.2 _ (by simp [Params.bases]) h).symm
  · exact (if_neg fun hb => hb.2 _ (by simp [Params.bases]) h).symm
  · exact (if_neg fun hb => hb.2 _ (by simp [Params.bases]) h).symm
  · rw [Memory.read_write]; exact if_congr (and_iff_left h).symm rfl rfl

end

section
variable (p : Params) (t : Target) (w : CmdWord)

theorem Target.applyXfer_ok_p0 : (t.applyXfer p w .ok).p0 =
    if resetsData p w then [] else (t.store p (cmdAddr w) (cmdData w)).p0 := by
  rw [applyXfer]; split <;> rfl

theorem Target.applyXfer_ok_p1 : (t.applyXfer p w .ok).p1 =
    if resetsData p w then [] else (t.store p (cmdAddr w) (cmdData w)).p1 := by
  rw [applyXfer]; split <;> rfl

theorem Target.applyXfer_ok_reg : (t.applyXfer p w .ok).reg = (t.store p (cmdAddr w) (cmdData w)).reg := by
  rw [applyXfer]; split <;> rfl

end

/-- Settles O55: reset data forgets the digit cells that the store wrote, and every other cell reads as stored. -/
theorem transmissionCells : Obligations.TransmissionCells := by
  rintro p t w ⟨hp, -⟩
  refine ⟨fun k hk => ?_, fun k hk => ?_, fun a => ?_, fun k => ⟨rfl, rfl, rfl⟩⟩
  · rw [Target.applyXfer_ok_p0, apply_ite (Memory.read · k), Target.store_p0_read t _ _ hp hk, Memory.read_nil]
  · rw [Target.applyXfer_ok_p1, apply_ite (Memory.read · k), Target.store_p1_read t _ _ hp hk, Memory.read_nil]
  · rw [Target.applyXfer_ok_reg, Target.store_reg_read]

/-! ### A word sent twice -/

/-- A byte written twice to one cell leaves the list as written once. -/
theorem Memory.write_write (m : Memory) (a : Nat) (d : Byte) : (m.write a d).write a d = m.write a d := by
  induction m with
  | nil => simp [Memory.write]
  | cons c rest ih =>
    obtain ⟨b, v⟩ := c
    by_cases hlt : a < b
    · simp [Memory.write, hlt]
    · by_cases heq : a = b
      · simp [Memory.write, heq]
      · simp [Memory.write, hlt, heq, ih]

/-- Storing a byte twice stores it once: the address alone chooses the cells. -/
theorem Target.store_store (p : Params) (t : Target) (a d : Byte) : (t.store p a d).store p a d = t.store p a d := by
  unfold Target.store
  split_ifs <;> simp [Memory.write_write]

/-- What the digit cells held before a store makes no difference once they are forgotten. -/
theorem Target.forgetDigits_store (p : Params) (t : Target) (a d : Byte) :
    (t.forgetDigits.store p a d).forgetDigits = (t.store p a d).forgetDigits := by
  unfold Target.store
  split_ifs <;> rfl

/-- Settles O56, by the two forms of a successful transmission. -/
theorem repeatedWordIsIdempotent : Obligations.RepeatedWordIsIdempotent := by
  rintro p t w -
  simp only [Target.applyXfer]
  split
  · rw [Target.forgetDigits_store, Target.store_store]
  · exact Target.store_store ..

/-! ### The observation follows the recorded events -/

/-- From `s` to `t` some events were recorded, and the cells of `t` are those of `s` after these events. -/
def RecordsObserved (s t : State) : Prop :=
  ∃ es, t.trace = s.trace ++ es ∧ t.target = s.target.observe s.params es

namespace RecordsObserved

variable {s t : State}

/-- With no event recorded, the cells stay. -/
theorem of_eq (htrace : t.trace = s.trace) (htarget : t.target = s.target) : RecordsObserved s t :=
  ⟨[], by simpa using htrace, htarget⟩

/-- A request only ever records a response, which changes no cell. -/
theorem exec {i : Instr} (h : exec i s = .next t) : RecordsObserved s t := by
  obtain ⟨-, ⟨-, rfl⟩ | ⟨ws, -, rfl⟩⟩ := exec_next h
  · exact ⟨[.respond .invalidArgument 0], rfl, rfl⟩
  · exact of_eq rfl rfl

/-- The block's own step records a transmission, a response or both, and the cells are those after the transmission. -/
theorem advance (s : State) : RecordsObserved s (advance s) := by
  rcases advance_cases s with ⟨-, e⟩ | ⟨-, -, e⟩ | ⟨w, rest, -, -, -, e⟩ | ⟨w, rest, -, -, -, e⟩ <;> rw [e]
  · exact of_eq rfl rfl
  · exact ⟨[.respond .ok s.sent], rfl, rfl⟩
  · exact ⟨[.xfer w (nextOutcome s)], xfer_trace s w, xfer_target s w⟩
  · exact ⟨[.xfer w (nextOutcome s), .respond .transportFailure s.sent], by simp, xfer_target s w⟩

/-- A reset in `Idle` records nothing and keeps the cells (log entry 9). -/
theorem resetBlock (h : s.phase = .idle) : RecordsObserved s (resetBlock s) :=
  of_eq (resetBlock_trace s) (resetBlock_target_idle s h)

theorem queryFont (c : Byte) : RecordsObserved s (queryFont c s) := of_eq rfl rfl

end RecordsObserved

/-- Settles O54, by the four things a step can do; of these only a reset while `Busy` changes cells without a record. -/
theorem targetFollowsTrace : Obligations.TargetFollowsTrace := by
  intro s t hs hreset
  rcases step_cases hs with ⟨i, rest, -, he⟩ | ⟨ins, rfl⟩ | ⟨rest, hi, rfl⟩ | ⟨c, rest, -, rfl⟩
  · exact (RecordsObserved.exec he :)
  · exact RecordsObserved.advance { s with inputs := ins }
  · have hidle : s.phase = .idle := by
      cases hp : s.phase with
      | idle => rfl
      | busy => exact absurd ⟨hp, rest, hi⟩ hreset
    exact RecordsObserved.resetBlock (s := { s with inputs := rest }) hidle
  · exact RecordsObserved.queryFont (s := { s with inputs := rest }) c

/-! ### The addresses that are sent -/

/-- The emittable addresses are the control registers but the no-op one, and the digit blocks (20_memory R46, R47). -/
theorem emittable_iff {p : Params} {a : Byte} :
    emittable p a ↔ a ∈ p.controlAddrs.tail ∨ ∃ b ∈ p.bases, inBlock b a := by
  simp [emittable, Params.controlAddrs, Params.bases, or_assoc]

/-- The no-op register is never emitted: it is no other control register and lies in no digit block. -/
theorem not_emittable_noop {p : Params} (hp : p.wellFormed) : ¬ emittable p p.addrNoop := by
  rw [emittable_iff]
  rintro (h | ⟨b, hb, h⟩)
  · exact (List.nodup_cons.1 hp.2.1.1).1 h
  · exact control_not_inBlock hp List.mem_cons_self hb h

/-- The unmapped addresses of the default map (20_memory R46). -/
theorem emittable_defaultParams {a : Byte} (h : emittable defaultParams a) :
    a ≠ 0x05 ∧ a ≠ 0x06 ∧ a.toNat ≤ 0x67 := by
  rw [emittable_iff] at h
  revert a
  decide

/-- Every word of a request names an emittable address (20_memory R47). -/
theorem encodeRequest_emittable {p : Params} (hp : p.wellFormed) {i : Instr} {ws : List CmdWord}
    (h : encodeRequest p i = .words ws) : ∀ w ∈ ws, emittable p (cmdAddr w) := by
  intro w hw
  rcases encodeRequest_words h with ⟨_, _, _, _, rfl, -⟩ | ⟨a, _, rfl, -, ha⟩ | ⟨-, -, -, hws⟩
  · rw [List.mem_singleton.1 hw, cmdAddr_cmd, emittable_iff]
    simp [Params.controlAddrs]
  · rw [List.mem_singleton.1 hw, cmdAddr_cmd, emittable_iff]
    rcases ha with rfl | rfl | rfl | rfl <;> simp [Params.controlAddrs]
  · obtain ⟨pl, b, k, dp, q, hb, hk, rfl⟩ := hws w hw
    have hb := planeBase_mem hb
    rw [cmdAddr_cmd, emittable_iff]
    exact .inr ⟨b, hb, digitAddr_inBlock hp hb hk⟩

/-- Settles O36: the pending words are those of `encode`, and no emittable address is the no-op register's. -/
theorem emittedAddresses : Obligations.EmittedAddresses := by
  intro s t i w hp he hb hw
  have ha := encodeRequest_emittable hp (exec_busy_words he hb) w hw
  exact ⟨ha, fun h => not_emittable_noop hp (h ▸ ha), fun hd => emittable_defaultParams (hd ▸ ha)⟩

/-- The words to send and the words recorded as sent name only emittable addresses (20_memory R47). -/
structure AddressesMapped (s : State) : Prop where
  pending : ∀ w ∈ s.pending, emittable s.params (cmdAddr w)
  recorded : ∀ w r, Event.xfer w r ∈ s.trace → emittable s.params (cmdAddr w)

namespace AddressesMapped

variable {s t : State}

/-- The inputs still to come are no part of the invariant. -/
theorem withInputs (h : AddressesMapped s) (ins : List Input) : AddressesMapped { s with inputs := ins } := { h with }

theorem queryFont (h : AddressesMapped s) (c : Byte) : AddressesMapped (queryFont c s) := { h with }

theorem toIdle (h : AddressesMapped s) : AddressesMapped (toIdle s) := { h with pending := nofun }

/-- A response is no transmission. -/
theorem respond (h : AddressesMapped s) (st : Status) (n : BitVec 4) : AddressesMapped (respond st n s) :=
  { h with recorded := fun w r hw => h.recorded w r (by simpa using hw) }

/-- A request that is taken, rejected or accepted. -/
theorem exec (h : AddressesMapped s) (hp : s.params.wellFormed) {i : Instr} (he : exec i s = .next t) :
    AddressesMapped t := by
  obtain ⟨-, ⟨-, rfl⟩ | ⟨ws, hw, rfl⟩⟩ := exec_next he
  · exact h.respond .invalidArgument 0
  · exact { h with pending := encodeRequest_emittable hp hw }

/-- A transmission of an emittable word. -/
theorem xfer (h : AddressesMapped s) {w : CmdWord} (hw : emittable s.params (cmdAddr w)) :
    AddressesMapped (xfer w s) where
  pending := by simpa using h.pending
  recorded := by
    intro u r hu
    rw [xfer_trace, List.mem_append, List.mem_singleton] at hu
    rw [xfer_params]
    rcases hu with hu | hu
    · exact h.recorded u r hu
    · obtain ⟨rfl, -⟩ := Event.xfer.inj hu
      exact hw

/-- The block's own step sends the first pending word, if it sends one. -/
theorem advance (h : AddressesMapped s) : AddressesMapped (advance s) := by
  rcases advance_cases s with ⟨-, e⟩ | ⟨-, -, e⟩ | ⟨w, rest, -, hp, -, e⟩ | ⟨w, rest, -, hp, -, e⟩ <;> rw [e]
  · exact h
  · exact (h.respond .ok s.sent).toIdle
  · obtain ⟨hw, hrest⟩ := List.forall_mem_cons.1 (hp ▸ h.pending)
    exact { h.xfer hw with pending := by simpa using hrest }
  · obtain ⟨hw, -⟩ := List.forall_mem_cons.1 (hp ▸ h.pending)
    exact ((h.xfer hw).respond .transportFailure _).toIdle

/-- A reset drops the pending words and keeps the record. -/
theorem resetBlock (h : AddressesMapped s) : AddressesMapped (resetBlock s) where
  pending := by simp
  recorded := by simpa using h.recorded

end AddressesMapped

/-- Settles O4, by the four things a step can do. -/
theorem stepKeepsAddressesMapped : Obligations.StepKeepsAddressesMapped := by
  intro s t hp hpending hrecorded hs
  have h : AddressesMapped s := ⟨hpending, hrecorded⟩
  suffices ht : AddressesMapped t from ⟨ht.pending, ht.recorded⟩
  rcases step_cases hs with ⟨i, rest, -, he⟩ | ⟨ins, rfl⟩ | ⟨rest, -, rfl⟩ | ⟨c, rest, -, rfl⟩
  · exact (h.withInputs rest).exec hp he
  · exact (h.withInputs ins).advance
  · exact (h.withInputs rest).resetBlock
  · exact (h.withInputs rest).queryFont c

end Sys2Proof.Machine

/-! PROOFS. The family of 30_encoding.md: a request and its word (R60 to R65, R71, R72), the response word and which
responses are given (R66), and the reserved operation codes (R68). -/

namespace Sys2Proof.Machine

/-! ### A request and its word -/

/-- The word of a request, from its operation code and its fields. -/
theorem encode_eq_packFields (i : Instr) : encode i =
    packFields (opCode i) (fieldsOf i).1 (fieldsOf i).2.1 false (fieldsOf i).2.2.1 (fieldsOf i).2.2.2 := by
  cases i <;> rfl

theorem reqOp_encode (i : Instr) : reqOp (encode i) = opCode i := by
  rw [encode_eq_packFields, reqOp_packFields]

/-- An unsigned number of 32 bits is read back from its bits. -/
theorem toNat_ofNat_of_fits {n : Nat} (h : fitsU32 n) : (BitVec.ofNat 32 n).toNat = n :=
  (BitVec.toNat_ofNat n 32).trans (Nat.mod_eq_of_lt h)

/-- The fields of a well-formed request, decoded under its operation code, are its operands. -/
theorem decodeFields_fieldsOf {i : Instr} (h : i.wellFormed = true) :
    decodeFields (opCode i) (fieldsOf i).1 (fieldsOf i).2.1 (fieldsOf i).2.2.1 (fieldsOf i).2.2.2 = i := by
  cases i with
  | setblink mode => exact congrArg Instr.setblink (toNat_ofNat_of_fits (of_decide_eq_true h))
  | setdisp mode => exact congrArg Instr.setdisp (toNat_ofNat_of_fits (of_decide_eq_true h))
  | setdigits n => exact congrArg Instr.setdigits (toNat_ofNat_of_fits (of_decide_eq_true h))
  | setint level => exact congrArg Instr.setint (toNat_ofNat_of_fits (of_decide_eq_true h))
  | setdecode mask => exact congrArg Instr.setdecode (toNat_ofNat_of_fits (of_decide_eq_true h))
  | digit pl dp index value =>
    simp only [Instr.wellFormed, Bool.and_eq_true, decide_eq_true_eq] at h
    obtain ⟨hi, hv⟩ := h
    show Instr.digit (planeOfBits (planeBits pl)) dp (BitVec.ofNat 32 index).toNat (BitVec.ofNat 32 value).toNat = _
    rw [planeOfBits_planeBits, toNat_ofNat_of_fits hi, toNat_ofNat_of_fits hv]
  | number pl n v =>
    simp only [Instr.wellFormed, Bool.and_eq_true, decide_eq_true_eq] at h
    obtain ⟨hn, hv⟩ := h
    show Instr.number (planeOfBits (planeBits pl)) (BitVec.ofNat 32 n).toNat (BitVec.ofInt 32 v).toInt = _
    rw [planeOfBits_planeBits, toNat_ofNat_of_fits hn, toInt_ofInt_of_fits hv]
  | clear | reserved0 | reserved9 | reservedA | reservedB | reservedC | reservedD | reservedE | reservedF => rfl

/-- Settles O6: the packed fields are read back, and they are those of the request. -/
theorem decodeOfEncode : Obligations.DecodeOfEncode := by
  intro i h
  rw [encode_eq_packFields, decode_packFields, decodeFields_fieldsOf h]

/-! ### A word and its request -/

section
variable (op : BitVec 4) (pl : BitVec 2) (dp : Bool) (a b : BitVec 32)

theorem opCode_decodeFields : opCode (decodeFields op pl dp a b) = op := by
  rcases opCode_cases op with rfl | rfl | rfl | rfl | rfl | rfl | rfl | rfl | rfl | rfl | rfl | rfl | rfl | rfl | rfl |
    rfl <;> rfl

/-- The bits of a field are a number that fits it. -/
theorem wellFormed_decodeFields : (decodeFields op pl dp a b).wellFormed = true := by
  have ha := a.isLt
  have hb := b.isLt
  have hmin := b.le_toInt
  have hmax := b.toInt_lt
  unfold decodeFields
  split <;> simp [Instr.wellFormed] <;> omega

/-- The fields a decoded request keeps: those its operation uses by the table of R65, the others are 0. -/
theorem fieldsOf_decodeFields : fieldsOf (decodeFields op pl dp a b) =
    if op = 7 then (pl, dp, a, b) else if op = 8 then (pl, false, a, b)
    else if usesA op then (0, false, a, 0) else (0, false, 0, 0) := by
  rcases opCode_cases op with rfl | rfl | rfl | rfl | rfl | rfl | rfl | rfl | rfl | rfl | rfl | rfl | rfl | rfl | rfl |
    rfl <;> simp [decodeFields, fieldsOf, usesA]

end

theorem opCode_decode (w : ReqWord) : opCode (decode w) = reqOp w := opCode_decodeFields ..

/-- Settles O7: the decoded request is packed from the fields its operation uses. -/
theorem encodeOfDecode : Obligations.EncodeOfDecode := by
  refine fun w => ⟨wellFormed_decodeFields .., ?_⟩
  rw [encode_eq_packFields, opCode_decode, decode, fieldsOf_decodeFields, clearIgnored]
  split_ifs <;> rfl

/-- Clearing the ignored fields leaves the request as it is: encoding and decoding again goes through the cleared word. -/
theorem decode_clearIgnored (w : ReqWord) : decode (clearIgnored w) = decode w := by
  obtain ⟨hwf, he⟩ := encodeOfDecode w
  rw [← he, decodeOfEncode _ hwf]

/-- The word of a well-formed request has 0 in its ignored fields. -/
theorem clearIgnored_encode {i : Instr} (h : i.wellFormed = true) : clearIgnored (encode i) = encode i := by
  rw [← (encodeOfDecode (encode i)).2, decodeOfEncode i h]

/-- Words that agree in `OP` and in the fields used differ only in what `clearIgnored` drops. -/
theorem clearIgnored_congr {w w' : ReqWord} (hop : reqOp w = reqOp w') (ha : usesA (reqOp w) → reqA w = reqA w')
    (hpb : usesPlB (reqOp w) → reqPl w = reqPl w' ∧ reqB w = reqB w') (hdp : reqOp w = 7 → reqDp w = reqDp w') :
    clearIgnored w = clearIgnored w' := by
  unfold clearIgnored
  rw [← hop]
  split_ifs with h7 h8 hA
  · obtain ⟨hpl, hb⟩ := hpb (.inl h7)
    rw [hpl, hb, hdp h7, ha (by simp [h7, usesA])]
  · obtain ⟨hpl, hb⟩ := hpb (.inr h8)
    rw [hpl, hb, ha (by simp [h8, usesA])]
  · rw [ha hA]
  · rfl

/-- Settles O8: both words become one when their ignored fields are cleared, and that changes no request. -/
theorem ignoredFieldsChangeNothing : Obligations.IgnoredFieldsChangeNothing := by
  intro w w' hop ha hpb hdp
  have h : decode w = decode w' := by
    rw [← decode_clearIgnored w, clearIgnored_congr hop ha hpb hdp, decode_clearIgnored]
  exact ⟨h, fun s => by rw [h]⟩

/-! ### The layout of R72 -/

/-- The packed word with `X` = 0 is its fields, each shifted to its place: at every bit all fields but one are below their
place or past their width, and so 0 (30_encoding R60, R72). -/
theorem packFields_eq_shifts (op : BitVec 4) (pl : BitVec 2) (dp : Bool) (a b : BitVec 32) :
    packFields op pl dp false a b =
      (op.setWidth 72 <<< 68) ||| (pl.setWidth 72 <<< 66) ||| ((BitVec.ofBool dp).setWidth 72 <<< 65) |||
      (a.setWidth 72 <<< 32) ||| b.setWidth 72 := by
  apply BitVec.eq_of_getLsbD_eq
  intro k hk
  rw [getLsbD_packFields]
  simp only [BitVec.getLsbD_or, BitVec.getLsbD_shiftLeft, BitVec.getLsbD_setWidth, BitVec.getLsbD_ofBool]
  split_ifs <;>
    simp (disch := omega) only [BitVec.getLsbD_of_ge, decide_eq_true, decide_eq_false, Bool.not_true, Bool.not_false,
      Bool.true_and, Bool.false_and, Bool.and_false, Bool.or_false, Bool.false_or]

/-- Settles O9: a request's word is packed from its fields, and the examples are computed. -/
theorem assembledRequestLayout : Obligations.AssembledRequestLayout :=
  ⟨fun i => (encode_eq_packFields i).trans (packFields_eq_shifts ..), rfl, rfl, rfl⟩

/-- Settles O10, by computing the nine decodings. -/
theorem specWordsDecode : Obligations.SpecWordsDecode := ⟨rfl, rfl, rfl, rfl, rfl, rfl, rfl, rfl, rfl⟩

/-! ### The assembler -/

/-- The word is that of a request of a defined operation, with operands that fit. -/
def DefinedWord (w : ReqWord) : Prop := ∃ i : Instr, i.wellFormed = true ∧ ¬ reservedOp (opCode i) ∧ w = encode i

theorem asmFits_ok {o : Option Instr} {w : ReqWord} (h : asmFits o = .ok w) :
    ∃ i, o = some i ∧ i.wellFormed = true ∧ w = encode i := by
  cases o with
  | none => simp [asmFits] at h
  | some i =>
    by_cases hi : i.wellFormed = true
    · exact ⟨i, rfl, hi, by simpa [asmFits, hi] using h.symm⟩
    · simp [asmFits, hi] at h

/-- What fits is a defined word when the line's operation is not reserved. -/
theorem asmFits_definedWord {o : Option Instr} {w : ReqWord} (ho : ∀ i, o = some i → ¬ reservedOp (opCode i))
    (h : asmFits o = .ok w) : DefinedWord w := by
  obtain ⟨i, hi, hwf, rfl⟩ := asmFits_ok h
  exact ⟨i, hwf, ho i hi, rfl⟩

theorem asmOne_eq_some {read : List Char → Option Nat} {make : Nat → Instr} {ops : List (List Char)} {i : Instr}
    (h : asmOne read make ops = some i) : ∃ n, i = make n := by
  unfold asmOne at h
  split at h
  · obtain ⟨n, -, rfl⟩ := Option.map_eq_some_iff.1 h
    exact ⟨n, rfl⟩
  · cases h

theorem asmDigitReq_eq_some {ops : List (List Char)} {i : Instr} (h : asmDigitReq ops = some i) :
    ∃ pl dp m n, i = .digit pl dp m n := by
  unfold asmDigitReq at h
  split at h
  · split at h
    · exact ⟨_, _, _, _, (Option.some.inj h).symm⟩
    · cases h
  · split_ifs at h
    split at h
    · exact ⟨_, _, _, _, (Option.some.inj h).symm⟩
    · cases h
  · cases h

theorem asmNumberReq_eq_some {ops : List (List Char)} {i : Instr} (h : asmNumberReq ops = some i) :
    ∃ pl n v, i = .number pl n v := by
  unfold asmNumberReq at h
  split at h
  · split at h
    · exact ⟨_, _, _, (Option.some.inj h).symm⟩
    · cases h
  · cases h

/-- A line of one number gives a defined word. -/
theorem asmFits_asmOne {read : List Char → Option Nat} {make : Nat → Instr} {ops : List (List Char)} {w : ReqWord}
    (hmake : ∀ n, ¬ reservedOp (opCode (make n))) (h : asmFits (asmOne read make ops) = .ok w) : DefinedWord w :=
  asmFits_definedWord (fun _ hi => by obtain ⟨n, rfl⟩ := asmOne_eq_some hi; exact hmake n) h

/-- Every line but `.req` gives the word of one of the eight operations (30_encoding R71). -/
theorem assembleRequest_definedWord {name : List Char} {ops : List (List Char)} {w : ReqWord}
    (h : assembleRequest name ops = .ok w) (hreq : name ≠ ".req".toList) : DefinedWord w := by
  unfold assembleRequest at h
  split_ifs at h
  · exact asmFits_asmOne (fun _ => by simp [opCode, reservedOp]) h
  · exact ⟨.clear, rfl, by decide, (Except.ok.inj h).symm⟩
  · exact asmFits_asmOne (fun _ => by simp [opCode, reservedOp]) h
  · exact asmFits_asmOne (fun _ => by simp [opCode, reservedOp]) h
  · exact asmFits_asmOne (fun _ => by simp [opCode, reservedOp]) h
  · exact asmFits_asmOne (fun _ => by simp [opCode, reservedOp]) h
  · refine asmFits_definedWord (fun i hi => ?_) h
    obtain ⟨pl, dp, m, n, rfl⟩ := asmDigitReq_eq_some hi
    simp [opCode, reservedOp]
  · refine asmFits_definedWord (fun i hi => ?_) h
    obtain ⟨pl, n, v, rfl⟩ := asmNumberReq_eq_some hi
    simp [opCode, reservedOp]

/-- Settles O12: an assembled word is that of a well-formed request, which `clearIgnored` leaves alone. -/
theorem onlyReqWritesRawWords : Obligations.OnlyReqWritesRawWords := by
  intro line w h hreq
  obtain ⟨i, hwf, hop, rfl⟩ := assembleRequest_definedWord h hreq
  exact ⟨by rwa [reqOp_encode], clearIgnored_encode hwf, i, hwf, rfl⟩

/-- Settles O11, by assembling the seven lines. -/
theorem assemblerExamples : Obligations.AssemblerExamples := by
  refine ⟨?_, ?_, ?_, ?_, ?_, ?_, ?_⟩ <;> decide

/-! ### The response word -/

/-- Settles O23: the three fields are read back from the packed byte. -/
theorem responseWordLayout : Obligations.ResponseWordLayout := by
  intro st n
  cases st <;> (revert n; decide)

/-! ### Which responses are given -/

/-- From `s` to `t` some events were recorded: none, a successful transmission, a response that R66 allows, or a failed
transmission and its response. -/
def RecordsLegal (s t : State) : Prop :=
  ∃ es, t.trace = s.trace ++ es ∧ (∀ st n, Event.respond st n ∈ es → legalResponse st n) ∧
    (es = [] ∨ (∃ w, es = [.xfer w .ok]) ∨ (∃ st n, es = [.respond st n]) ∨
      ∃ w n, es = [.xfer w .fail, .respond .transportFailure n])

namespace RecordsLegal

variable {s t : State}

theorem nothing (h : t.trace = s.trace) : RecordsLegal s t := ⟨[], by simpa using h, by simp, .inl rfl⟩

theorem sent {w : CmdWord} (h : t.trace = s.trace ++ [.xfer w .ok]) : RecordsLegal s t :=
  ⟨_, h, by simp, .inr (.inl ⟨w, rfl⟩)⟩

theorem response {st : Status} {n : BitVec 4} (h : t.trace = s.trace ++ [.respond st n]) (hn : legalResponse st n) :
    RecordsLegal s t :=
  ⟨_, h, fun _ _ hm => by obtain ⟨rfl, rfl⟩ := Event.respond.inj (List.mem_singleton.1 hm); exact hn,
    .inr (.inr (.inl ⟨st, n, rfl⟩))⟩

theorem failure {w : CmdWord} {n : BitVec 4}
    (h : t.trace = s.trace ++ [.xfer w .fail, .respond .transportFailure n]) (hn : n.toNat ≤ 7) : RecordsLegal s t :=
  ⟨_, h, by simpa [legalResponse] using hn, .inr (.inr (.inr ⟨w, n, rfl⟩))⟩

/-- A request that is taken records a response only when it is rejected. -/
theorem exec {i : Instr} (h : exec i s = .next t) : RecordsLegal s t := by
  obtain ⟨-, ⟨-, rfl⟩ | ⟨ws, -, rfl⟩⟩ := exec_next h
  · exact response rfl rfl
  · exact nothing rfl

/-- The block's own step: a completed request sent 1 to 8 words, a failed one had a word left to send. -/
theorem advance (h : Consistent s) : RecordsLegal s (advance s) := by
  rcases advance_cases s with ⟨-, e⟩ | ⟨hb, hp, e⟩ | ⟨w, rest, -, -, ho, e⟩ | ⟨w, rest, hb, hp, ho, e⟩ <;> rw [e]
  · exact nothing rfl
  · have hn := h.busyBound hb
    rw [hp] at hn
    exact response (complete_trace s) hn
  · exact sent (ho ▸ xfer_trace s w)
  · have hn := h.busyBound hb
    rw [hp, List.length_cons] at hn
    exact failure (w := w) (n := s.sent) (by simp [ho]) (by omega)

end RecordsLegal

/-- Settles O53, by the four things a step can do; resets and font queries record nothing. -/
theorem responsesAreLegal : Obligations.ResponsesAreLegal := by
  intro s t h hs
  rcases step_cases hs with ⟨i, rest, -, he⟩ | ⟨ins, rfl⟩ | ⟨rest, -, rfl⟩ | ⟨c, rest, -, rfl⟩
  · exact (RecordsLegal.exec he :)
  · exact RecordsLegal.advance (h.withInputs ins)
  · exact RecordsLegal.nothing (resetBlock_trace _)
  · exact RecordsLegal.nothing (queryFont_trace _ c)

/-! ### Reserved operation codes -/

/-- The pure function `encode` raises InvalidArgument for every reserved code (30_encoding R68). -/
theorem encodeRequest_of_reservedOp (p : Params) {i : Instr} (h : reservedOp (opCode i)) :
    encodeRequest p i = .invalidArgument := by
  cases i with
  | setblink | clear | setdisp | setdigits | setint | setdecode | digit | number => simp [opCode, reservedOp] at h
  | reserved0 | reserved9 | reservedA | reservedB | reservedC | reservedD | reservedE | reservedF => rfl

/-- Settles O33: a reserved request is one whose operation code is reserved. -/
theorem reservedRequests : Obligations.ReservedRequests := by
  intro s hs
  have h : ∀ i, reservedOp (opCode i) → exec i s = .next (rejected s) :=
    fun i hi => exec_rejected hs (encodeRequest_of_reservedOp _ hi)
  refine ⟨fun w hw => h _ (by rwa [opCode_decode]), ?_, ?_, ?_, ?_, ?_, ?_, ?_, ?_⟩ <;> exact h _ (by decide)

end Sys2Proof.Machine

/-! PROOFS. The family of 40_register_model.md: the digit/plane address decoder (R80, R81), the configuration packer (R82)
and the configuration words it gives (R83), and what the data bytes of the other registers say (R84 to R88). -/

namespace Sys2Proof.Machine

/-! ### The digit/plane address decoder -/

/-- The blocks of two planes are apart (00_scope R8 (1)). -/
theorem planeBase_apart {p : Params} (hp : p.blocksOk) {pl pl' : PlaneCode} {b b' : Byte} (hne : pl ≠ pl')
    (hb : planeBase p pl = some b) (hb' : planeBase p pl' = some b') :
    b.toNat + 8 ≤ b'.toNat ∨ b'.toNat + 8 ≤ b.toNat := by
  obtain ⟨h01, h02, h12⟩ := blocks_apart hp
  match pl, pl', hb, hb' with
  | .p0, .p1, rfl, rfl => exact h01
  | .p0, .both, rfl, rfl => exact h02
  | .p1, .p0, rfl, rfl => exact h01.symm
  | .p1, .both, rfl, rfl => exact h12
  | .both, .p0, rfl, rfl => exact h02.symm
  | .both, .p1, rfl, rfl => exact h12.symm
  | .p0, .p0, _, _ | .p1, .p1, _, _ | .both, .both, _, _ => exact absurd rfl hne

/-- Settles O14: a digit address is its plane's base plus its index below 8, and these blocks are apart from each other and
from the control registers. -/
theorem digitAddressesDistinct : Obligations.DigitAddressesDistinct := by
  intro p pl pl' d d' hp hpl hpl' hd hd'
  obtain ⟨b, hb⟩ := planeBase_isSome p hpl
  obtain ⟨b', hb'⟩ := planeBase_isSome p hpl'
  rw [resolve_of_base hd hb, resolve_of_base hd' hb']
  have hmem := planeBase_mem hb
  have hin := digitAddr_inBlock hp hmem hd
  refine ⟨fun h => ?_, ⟨b, hmem, hin⟩, fun hc => control_not_inBlock hp hc hmem hin⟩
  have hsum : b.toNat + d = b'.toNat + d' := by
    rw [← digitAddr_toNat hp hmem hd, ← digitAddr_toNat hp (planeBase_mem hb') hd']
    exact congrArg BitVec.toNat h
  have hplane : pl = pl' := by
    by_contra hne
    have := planeBase_apart hp.1 hne hb hb'
    omega
  subst hplane
  cases hb.symm.trans hb'
  exact ⟨rfl, by omega⟩

theorem resolve_ok_of_gt (p : Params) (pl : PlaneCode) {d : Nat} (hd : d > 7) : (resolveDigitAddress p pl d).ok = false := by
  by_contra h
  have := (resolve_ok h).1
  omega

theorem resolve_ok_pl3 (p : Params) (d : Nat) : (resolveDigitAddress p .pl3 d).ok = false := by
  by_contra h
  obtain ⟨-, b, hb, -⟩ := resolve_ok h
  cases hb

/-- Settles O13: each plane's base is named by `planeBase`, and what has an index above 7 or no base is not accepted. -/
theorem digitAddressDecoder : Obligations.DigitAddressDecoder :=
  ⟨fun _ _ hd => ⟨resolve_of_base hd rfl, resolve_of_base hd rfl, resolve_of_base hd rfl⟩,
    fun _ _ _ hp hb hd => digitAddr_toNat hp hb hd, fun p pl _ hd => resolve_ok_of_gt p pl hd, resolve_ok_pl3,
    resolve_of_base (b := 0x20) (by decide) rfl⟩

/-! ### The configuration packer -/

/-- The must-be-zero bit is written last (40_register_model R82). -/
theorem packConfiguration_reserved (p : Params) (op rd br be bt : Bool) :
    (packConfiguration p op rd br be bt).getLsbD 1 = false :=
  (getLsbD_packConfiguration p op rd br be bt cfgReserved).trans (if_pos rfl)

/-- A bit that no field names stays 0 (40_register_model R82). -/
theorem packConfiguration_unnamed (p : Params) (op rd br be bt : Bool) {k : Fin 8} (hk : k ∉ p.cfgBits) :
    (packConfiguration p op rd br be bt).getLsbD k = false := by
  simp only [Params.cfgBits, List.mem_cons, List.not_mem_nil, or_false, not_or] at hk
  obtain ⟨hS, hB, hE, hT, hR⟩ := hk
  rw [getLsbD_packConfiguration, if_neg hR, if_neg hT, if_neg hE, if_neg hB, if_neg hS, ite_self]

/-- The packer as one formula at the defaults (40_register_model R82). -/
theorem packConfiguration_defaultParams : ∀ op rd br be bt : Bool, packConfiguration defaultParams op rd br be bt =
    (BitVec.ofBool op).setWidth 8 ||| ((BitVec.ofBool br).setWidth 8 <<< 2) ||| ((BitVec.ofBool be).setWidth 8 <<< 3) |||
    ((BitVec.ofBool bt).setWidth 8 <<< 4) ||| ((BitVec.ofBool rd).setWidth 8 <<< 5) := by
  decide

/-- Settles O15: the fields are read back from the packed byte, no other bit is written, and at the defaults the 32 values
are computed. -/
theorem configurationPacker : Obligations.ConfigurationPacker := by
  refine ⟨fun p op rd br be bt hp => ?_, fun p op rd br be bt _ => packConfiguration_unnamed p op rd br be bt,
    packConfiguration_reserved, packConfiguration_defaultParams, rfl, rfl, rfl⟩
  have h := configFields_packConfiguration hp op rd br be bt
  exact ⟨congrArg ConfigFields.operationMode h, congrArg ConfigFields.blinkFast h, congrArg ConfigFields.blinkEnable h,
    congrArg ConfigFields.blinkTimingReset h, congrArg ConfigFields.resetData h⟩

/-! ### Configuration words -/

/-- The configuration register has an address of its own (00_scope R8 (2)). -/
theorem addrConfig_distinct {p : Params} (hp : p.wellFormed) : p.addrConfig ≠ p.addrDecode ∧
    p.addrConfig ≠ p.addrIntensity ∧ p.addrConfig ≠ p.addrScanLimit ∧ p.addrConfig ≠ p.addrTest := by
  have h := hp.2.1.1
  simp only [Params.controlAddrs, List.nodup_cons, List.mem_cons, List.not_mem_nil, or_false, not_or] at h
  obtain ⟨-, ⟨-, -, hDecode, -⟩, ⟨-, hIntensity, -⟩, ⟨hScan, -⟩, hTest, -⟩ := h
  exact ⟨Ne.symm hDecode, Ne.symm hIntensity, Ne.symm hScan, hTest⟩

/-- A word to the configuration register holds a packed configuration without blink-timing reset, and resets the data only
for CLEAR (40_register_model R83): no other control register and no digit register has this address. -/
theorem encodeRequest_configWord {p : Params} (hp : p.wellFormed) {i : Instr} {ws : List CmdWord} {w : CmdWord}
    (h : encodeRequest p i = .words ws) (hw : w ∈ ws) (ha : cmdAddr w = p.addrConfig) :
    ∃ op rd br be, cmdData w = packConfiguration p op rd br be false ∧ (rd = true ↔ i = .clear) := by
  rcases encodeRequest_words h with ⟨op, rd, br, be, rfl, hrd⟩ | ⟨a, _, rfl, -, hctl⟩ | ⟨-, -, -, hdigit⟩
  · exact ⟨op, rd, br, be, by rw [List.mem_singleton.1 hw, cmdData_cmd], hrd⟩
  · rw [List.mem_singleton.1 hw, cmdAddr_cmd] at ha
    obtain ⟨hDecode, hIntensity, hScan, hTest⟩ := addrConfig_distinct hp
    rcases hctl with e | e | e | e
    · exact absurd (ha.symm.trans e) hDecode
    · exact absurd (ha.symm.trans e) hIntensity
    · exact absurd (ha.symm.trans e) hScan
    · exact absurd (ha.symm.trans e) hTest
  · obtain ⟨pl, b, d, dp, q, hb, hd, rfl⟩ := hdigit w hw
    rw [cmdAddr_cmd] at ha
    have hmem := planeBase_mem hb
    exact absurd (ha ▸ digitAddr_inBlock hp hmem hd) (control_not_inBlock hp (by simp [Params.controlAddrs]) hmem)

/-- Settles O37: the data byte of a configuration word is a packed configuration. -/
theorem configurationWordBits : Obligations.ConfigurationWordBits := by
  intro s t i w hp he hb hw ha
  obtain ⟨op, rd, br, be, hdata, hrd⟩ := encodeRequest_configWord hp (exec_busy_words he hb) hw ha
  have hf := configFields_packConfiguration hp.2.2 op rd br be false
  have hT : (cmdData w).getLsbD s.params.cfgT = false := hdata ▸ congrArg ConfigFields.blinkTimingReset hf
  have hR : (cmdData w).getLsbD s.params.cfgR = rd := hdata ▸ congrArg ConfigFields.resetData hf
  exact ⟨hdata ▸ packConfiguration_reserved .., hT, hR ▸ hrd⟩

/-! ### Digit bytes -/

/-- The data byte of a slot's word is a digit byte without the point (41_command_encoder R109). -/
theorem cmdData_numberWord (p : Params) (pl : PlaneCode) (n i : Nat) (slot : BitVec 4) :
    cmdData (numberWord p pl n i slot) = digitData false slot := by
  rw [numberWord, cmdData_cmd, digitData_false]

/-- Settles O38: every digit byte is built by `digitData`. -/
theorem digitDataBytes : Obligations.DigitDataBytes := by
  constructor
  · intro s t pl dp index value w he hb hw
    obtain ⟨-, hv, b, -, hws⟩ := encodeDigit_words (exec_busy_words he hb)
    rw [hws, List.mem_singleton] at hw
    obtain ⟨hzero, hpoint, hvalue⟩ := digitData_fields dp (BitVec.ofNat 4 value)
    rw [hw, cmdData_cmd]
    refine ⟨hzero, hpoint, ?_⟩
    rw [hvalue, BitVec.toNat_ofNat, Nat.mod_eq_of_lt (by omega)]
  · intro s t pl n v w he hb hw
    obtain ⟨-, -, -, slots, -, -, hws⟩ := encodeNumber_words (exec_busy_words he hb)
    rw [hws, numberWordsFrom_eq] at hw
    obtain ⟨k, -, rfl⟩ := List.mem_map.1 hw
    rw [cmdData_numberWord]
    obtain ⟨hzero, hpoint, -⟩ := digitData_fields false (slots.getD k 0)
    exact ⟨hzero, hpoint⟩

/-! ### What the bytes of the control registers say -/

section
variable (p : Params)

theorem encodeRequest_setdigits {n : Nat} (h1 : 1 ≤ n) (h8 : n ≤ 8) :
    encodeRequest p (.setdigits n) = .words [cmd p.addrScanLimit (BitVec.ofNat 8 (n - 1))] :=
  if_neg (by omega)

theorem encodeRequest_setint {level : Nat} (h : level ≤ 15) :
    encodeRequest p (.setint level) = .words [cmd p.addrIntensity ((BitVec.ofNat 4 level).setWidth 8)] :=
  if_neg (by omega)

theorem encodeRequest_setdisp {mode : Nat} (h : mode ≤ 1) :
    encodeRequest p (.setdisp mode) = .words [cmd p.addrTest (BitVec.ofNat 8 mode)] :=
  if_neg (by omega)

theorem encodeRequest_setdecode {mask : Nat} (h : mask ≤ decodeMaskLimit p.decodeMaskMax) :
    encodeRequest p (.setdecode mask) = .words [cmd p.addrDecode (BitVec.ofNat 8 mask)] :=
  if_neg (by omega)

end

/-- The byte `n - 1` asks for `n` digits (40_register_model R86). -/
theorem scanLimitDigits_ofNat {n : Nat} (h1 : 1 ≤ n) (h8 : n ≤ 8) : scanLimitDigits (BitVec.ofNat 8 (n - 1)) = n := by
  rw [scanLimitDigits, BitVec.toNat_ofNat]
  omega

/-- A zero-extended level is read back from bits 3:0, and bits 7:4 are 0 (40_register_model R85). -/
theorem intensity_fields (q : BitVec 4) : intensityLevel (q.setWidth 8) = q ∧ (q.setWidth 8).extractLsb' 4 4 = 0 := by
  revert q; decide

/-- The decode byte enables the positions of its mask (40_register_model R84). -/
theorem decodeEnabled_ofNat (mask : Nat) (k : Fin 8) : decodeEnabled (BitVec.ofNat 8 mask) k = mask.testBit k := by
  simp only [decodeEnabled, BitVec.getLsbD_ofNat, k.isLt, decide_true, Bool.true_and]

/-- The Code-B table reads back every symbol (43_font_table R154, R155). -/
theorem codebIndex_codebSymbol (idx : BitVec 4) : codebIndex (codebSymbol idx) = ⟨true, idx⟩ := by
  revert idx; decide

/-- Settles O22: each request's word is given by its `encode`, and its data byte is read by the view of its register. -/
theorem writtenBytesMean : Obligations.WrittenBytesMean := by
  refine ⟨fun p n h1 h8 => ⟨_, encodeRequest_setdigits p h1 h8, ?_⟩, fun p level h => ⟨_, encodeRequest_setint p h, ?_⟩,
    fun p => ⟨⟨_, encodeRequest_setdisp p (by decide), ?_⟩, _, encodeRequest_setdisp p (by decide), ?_⟩,
    fun p mask h => ⟨_, encodeRequest_setdecode p h, ?_⟩, codebIndex_codebSymbol⟩ <;> rw [cmdData_cmd]
  · have hn := scanLimitDigits_ofNat h1 h8
    exact ⟨hn, fun k => by rw [positionDriven, hn, decide_eq_true_iff]⟩
  · obtain ⟨hlevel, hzero⟩ := intensity_fields (BitVec.ofNat 4 level)
    exact ⟨by rw [hlevel, BitVec.toNat_ofNat, Nat.mod_eq_of_lt (by omega)], hzero⟩
  · rfl
  · rfl
  · exact decodeEnabled_ofNat mask

end Sys2Proof.Machine

/-! PROOFS. The family of 41_command_encoder.md: what `encode` answers for every request (R101 to R109), what a request does
when it is presented to an `Idle` block, and the run of a whole request (R100, R110). -/

namespace Sys2Proof.Machine

/-! ### What `encode` answers -/

section
variable (p : Params)

theorem encodeRequest_setblink {mode : Nat} {be br : Bool} (h : blinkFields mode = some (be, br)) :
    encodeRequest p (.setblink mode) =
      .words [cmd p.addrConfig (packConfiguration p p.blinkOpMode false br be false)] := by
  rw [encodeRequest, encodeSetblink, h]

/-- The data byte of a digit register as a number (41_command_encoder R108). -/
theorem digitData_ofNat (dp : Bool) {value : Nat} (h : value ≤ 15) :
    digitData dp (BitVec.ofNat 4 value) = BitVec.ofNat 8 ((if dp then 0x80 else 0) + value) := by
  revert dp value
  decide

theorem encodeRequest_digit {pl : PlaneCode} {base : Byte} (dp : Bool) {index value : Nat}
    (hb : planeBase p pl = some base) (hd : index ≤ 7) (hv : value ≤ 15) :
    encodeRequest p (.digit pl dp index value) =
      .words [cmd (base + BitVec.ofNat 8 index) (digitData dp (BitVec.ofNat 4 value))] := by
  rw [encodeRequest, encodeDigit, resolve_of_base hd hb, if_neg (by simp), if_neg (by omega)]

/-- The word of slot `i` goes to the digit that `DIGIT_ORDER` gives it, most significant slot first. -/
theorem encodeRequest_number {pl : PlaneCode} {base : Byte} {n : Nat} {v : Int} {slots : List (BitVec 4)}
    (hb : planeBase p pl = some base) (h1 : 1 ≤ n) (h8 : n ≤ 8) (hs : decompose v n = some slots) :
    encodeRequest p (.number pl n v) = .words ((List.range n).map fun i =>
      cmd (base + BitVec.ofNat 8 (digitOfSlot p.digitOrder n i)) ((slots.getD i 0).setWidth 8)) := by
  have hpl : pl ≠ .pl3 := by rintro rfl; cases hb
  rw [encodeRequest, encodeNumber, if_neg hpl, if_neg (by omega), hs]
  refine congrArg EncodeResult.words ?_
  rw [numberWordsFrom_eq, decompose_length h1 (by omega) hs]
  refine List.map_congr_left fun i hi => ?_
  rw [Nat.zero_add, numberWord, resolve_of_base (digitOfSlot_le _ (List.mem_range.1 hi) h8) hb]

end

/-- `encode` raises InvalidArgument whenever the table of 60_exceptions R171 says so. -/
theorem encodeRequest_of_invalidDue {p : Params} {i : Instr} (h : invalidDue p i) :
    encodeRequest p i = .invalidArgument := by
  cases i with
  | setblink mode =>
    match mode, h with
    | _ + 3, _ => rfl
  | clear => exact h.elim
  | setdisp | setint | setdecode => exact if_pos h
  | setdigits n => exact if_pos (h.imp_left Nat.lt_one_iff.2)
  | digit pl dp index value =>
    cases he : encodeRequest p (.digit pl dp index value) with
    | invalidArgument => rfl
    | words ws =>
      obtain ⟨hd, hv, b, hb, -⟩ := encodeDigit_words he
      rcases h with rfl | h | h
      · cases hb
      · omega
      · omega
  | number pl n v =>
    cases he : encodeRequest p (.number pl n v) with
    | invalidArgument => rfl
    | words ws =>
      obtain ⟨hpl, h1, h8, slots, hs, -⟩ := encodeNumber_words he
      rcases h with h | h | h | h
      · exact absurd h hpl
      · omega
      · omega
      · cases h.symm.trans hs
  | reserved0 | reserved9 | reservedA | reservedB | reservedC | reservedD | reservedE | reservedF => rfl

/-- How many words an accepted request sends (41_command_encoder R101). -/
def wordCount : Instr → Nat
  | .number _ n _ => n
  | _ => 1

/-- `encode` gives words whenever the table of 60_exceptions R171 does not ask for InvalidArgument. -/
theorem encodeRequest_of_not_invalidDue {p : Params} {i : Instr} (h : ¬ invalidDue p i) :
    ∃ ws, encodeRequest p i = .words ws ∧ ws.length = wordCount i := by
  cases i with
  | setblink mode =>
    match mode, h with
    | 0, _ | 1, _ | 2, _ => exact ⟨_, encodeRequest_setblink p rfl, rfl⟩
    | _ + 3, h => exact absurd (by simp [invalidDue]) h
  | clear => exact ⟨_, rfl, rfl⟩
  | setdisp mode => exact ⟨_, encodeRequest_setdisp p (Nat.le_of_not_gt h), rfl⟩
  | setdigits n =>
    obtain ⟨h0, h8⟩ := not_or.1 h
    exact ⟨_, encodeRequest_setdigits p (Nat.pos_of_ne_zero h0) (Nat.le_of_not_gt h8), rfl⟩
  | setint level => exact ⟨_, encodeRequest_setint p (Nat.le_of_not_gt h), rfl⟩
  | setdecode mask => exact ⟨_, encodeRequest_setdecode p (Nat.le_of_not_gt h), rfl⟩
  | digit pl dp index value =>
    simp only [invalidDue, not_or] at h
    obtain ⟨hpl, hd, hv⟩ := h
    obtain ⟨b, hb⟩ := planeBase_isSome p hpl
    exact ⟨_, encodeRequest_digit p dp hb (Nat.le_of_not_gt hd) (Nat.le_of_not_gt hv), rfl⟩
  | number pl n v =>
    simp only [invalidDue, not_or] at h
    obtain ⟨hpl, h0, h8, hs⟩ := h
    obtain ⟨b, hb⟩ := planeBase_isSome p hpl
    obtain ⟨slots, hs⟩ := Option.ne_none_iff_exists'.1 hs
    refine ⟨_, encodeRequest_number p hb (Nat.pos_of_ne_zero h0) (Nat.le_of_not_gt h8) hs, ?_⟩
    rw [List.length_map, List.length_range, wordCount]
  | reserved0 | reserved9 | reservedA | reservedB | reservedC | reservedD | reservedE | reservedF =>
    exact absurd trivial h

/-- In a request word the number of words to send is `A` for NUMBER and 1 otherwise (41_command_encoder R101). -/
theorem wordCount_decode (w : ReqWord) : wordCount (decode w) = if reqOp w = 8 then (reqA w).toNat else 1 := by
  rw [decode]
  rcases opCode_cases (reqOp w) with h | h | h | h | h | h | h | h | h | h | h | h | h | h | h | h <;> rw [h] <;> rfl

/-- Settles O35: a word is rejected or accepted by the table of R171, and `exec` follows `encode`. -/
theorem encodeWordCounts : Obligations.EncodeWordCounts := by
  refine ⟨fun p w => ?_, fun s i hs => ?_⟩
  · by_cases h : invalidDue p (decode w)
    · exact .inl (encodeRequest_of_invalidDue h)
    · obtain ⟨ws, he, hlen⟩ := encodeRequest_of_not_invalidDue h
      obtain ⟨h1, h8⟩ := encodeRequest_words_length he
      exact .inr ⟨ws, he, h1, h8, hlen.trans (wordCount_decode w)⟩
  · cases he : encodeRequest s.params i with
    | invalidArgument => exact exec_rejected hs he
    | words ws => exact exec_accepted hs he

/-! ### The requests in `Idle` -/

/-- The table of 60_exceptions R171 rejects the request. -/
theorem exec_of_invalidDue {i : Instr} {s : State} (hs : s.phase = .idle) (h : invalidDue s.params i) :
    exec i s = .next (rejected s) :=
  exec_rejected hs (encodeRequest_of_invalidDue h)

/-- A request that has words under a condition and is rejected without it. -/
theorem exec_eq_ite {i : Instr} {s : State} {c : Prop} [Decidable c] {ws : List CmdWord} (hs : s.phase = .idle)
    (hwords : c → encodeRequest s.params i = .words ws) (hinvalid : ¬ c → invalidDue s.params i) :
    exec i s = .next (if c then accepted ws s else rejected s) := by
  split
  · next h => exact exec_accepted hs (hwords h)
  · next h => exact exec_of_invalidDue hs (hinvalid h)

/-- Settles O25: the three modes that `blinkFields` knows, and the others. -/
theorem setblinkRequest : Obligations.SetblinkRequest := by
  refine ⟨fun s hs => ⟨?_, ?_, ?_, fun mode h => exec_of_invalidDue hs h⟩, by decide, by decide, by decide⟩ <;>
    exact exec_accepted hs (encodeRequest_setblink s.params rfl)

/-- Settles O26: CLEAR has no operand and is never rejected. -/
theorem clearRequest : Obligations.ClearRequest :=
  ⟨fun _ hs => exec_accepted hs rfl, by decide⟩

/-- Settles O27: modes 0 and 1, and the others. -/
theorem setdispRequest : Obligations.SetdispRequest :=
  ⟨fun s hs => ⟨exec_accepted hs (encodeRequest_setdisp s.params (by decide)),
      exec_accepted hs (encodeRequest_setdisp s.params (by decide)), fun _ h => exec_of_invalidDue hs h⟩,
    by decide, by decide⟩

/-- Settles O28, by both sides of the bound. -/
theorem setdigitsRequest : Obligations.SetdigitsRequest := by
  refine ⟨fun s n hs => exec_eq_ite hs (fun h => encodeRequest_setdigits s.params h.1 h.2) fun h => ?_,
    by decide, by decide, by decide⟩
  simp only [invalidDue]
  omega

/-- A level up to 15, cut to 4 bits, is the same byte (41_command_encoder R106). -/
theorem setWidth_level {level : Nat} (h : level ≤ 15) : (BitVec.ofNat 4 level).setWidth 8 = BitVec.ofNat 8 level :=
  (digitData_false _).trans ((digitData_ofNat false h).trans (by simp))

/-- Settles O29: the level fits the 4 bits it is sent in. -/
theorem setintRequest : Obligations.SetintRequest :=
  ⟨fun s _ hs => exec_eq_ite hs (fun h => setWidth_level h ▸ encodeRequest_setint s.params h) Nat.lt_of_not_le,
    by decide, by decide, by decide⟩

/-- SETDECODE for whatever number `DECODE_MASK_MAX` stands for (41_command_encoder R107). -/
theorem exec_setdecode {s : State} {limit : Nat} (hs : s.phase = .idle)
    (hmax : decodeMaskLimit s.params.decodeMaskMax = limit) (mask : Nat) :
    exec (.setdecode mask) s = .next (if mask ≤ limit
      then accepted [cmd s.params.addrDecode (BitVec.ofNat 8 mask)] s else rejected s) := by
  subst hmax
  exact exec_eq_ite hs (encodeRequest_setdecode s.params) Nat.lt_of_not_le

/-- Settles O30: the limit is 0x07 or 0xFF. -/
theorem setdecodeRequest : Obligations.SetdecodeRequest :=
  ⟨fun _ mask hs hmax => exec_setdecode hs (congrArg decodeMaskLimit hmax) mask,
    fun _ mask hs hmax => exec_setdecode hs (congrArg decodeMaskLimit hmax) mask, rfl, by decide, by decide⟩

/-- Settles O31: the digit byte is the number `0x80` if the point is on, plus the value. -/
theorem digitRequest : Obligations.DigitRequest := by
  refine ⟨fun s pl base dp index value hs hb hd hv => ?_, fun s pl dp index value hs h => exec_of_invalidDue hs h,
    by decide, by decide⟩
  rw [← digitData_ofNat dp hv]
  exact exec_accepted hs (encodeRequest_digit s.params dp hb hd hv)

/-- Settles O32: `digitOfSlot` is the choice of digit by `DIGIT_ORDER`. -/
theorem numberRequest : Obligations.NumberRequest :=
  ⟨fun s _ _ _ _ _ hs hb h1 h8 hd => exec_accepted hs (encodeRequest_number s.params hb h1 h8 hd),
    fun _ _ _ _ hs h => exec_of_invalidDue hs (h.imp_right (Or.imp_left Nat.lt_one_iff.1)),
    by decide, by decide, by decide, by decide⟩

/-! ### The run of a whole request -/

/-- The state after the words `ws` were all sent successfully, with `rest` still to send (41_command_encoder R100). -/
def sentAll (ws rest : List CmdWord) (s : State) : State := { s with
  inputs := dropQuiets ws.length s.inputs
  pending := rest
  sent := s.sent + BitVec.ofNat 4 ws.length
  sel := if ws = [] then s.sel else false
  target := ws.foldl (fun t u => t.applyXfer s.params u .ok) s.target
  trace := s.trace ++ ws.map (fun u => .xfer u .ok)
  calls := s.calls ++ ws.flatMap (bracketOf s.params.csId)
  draws := s.draws.drop ws.length }

/-- Undisturbed, a `Busy` block whose next transmissions all succeed sends these words, one a step. -/
theorem run_sentAll {s : State} {ws rest : List CmdWord} {more : List XferResult} (hb : s.phase = .busy)
    (hp : s.pending = ws ++ rest) (hi : undisturbedFor ws.length s.inputs)
    (hd : s.draws = List.replicate ws.length .ok ++ more) : run ws.length s = .next (sentAll ws rest s) := by
  induction ws generalizing s with
  | nil =>
    obtain rfl : s.pending = rest := hp
    simp [sentAll, dropQuiets]
  | cons w ws ih =>
    obtain ⟨h1, hrest⟩ := undisturbedFor_succ hi
    have hd' : s.draws = .ok :: (List.replicate ws.length .ok ++ more) := hd
    have hs := sendOkStep.2.2 s w (ws ++ rest) h1 hb hp (nextOutcome_cons hd')
    refine (run_succ hs).trans ((ih (by exact hb) (by rfl) hrest (congrArg List.tail hd')).trans ?_)
    have hcount : s.sent + 1#4 + BitVec.ofNat 4 ws.length = s.sent + BitVec.ofNat 4 (ws.length + 1) := by
      rw [Nat.add_comm, BitVec.ofNat_add, BitVec.add_assoc]
    simp [sentAll, dropQuiets_succ ws.length, hd', hcount]

theorem sentAll_draws {s : State} {ws : List CmdWord} {more : List XferResult}
    (hd : s.draws = List.replicate ws.length .ok ++ more) (rest : List CmdWord) : (sentAll ws rest s).draws = more := by
  simp [sentAll, hd]

/-- A waiting request with words is accepted in the first step, and its first words `front` are sent in the next ones. -/
theorem run_request_sentAll {s : State} {w : ReqWord} {ins : List Input} {ws front rest : List CmdWord}
    {more : List XferResult} (hs : s.phase = .idle) (hi : s.inputs = .request w :: ins)
    (he : encodeRequest s.params (decode w) = .words ws) (hsplit : ws = front ++ rest)
    (hu : undisturbedFor front.length ins) (hd : s.draws = List.replicate front.length .ok ++ more) :
    run (front.length + 1) s = .next (sentAll front rest (accepted ws { s with inputs := ins })) := by
  have hstep : step s = .next (accepted ws { s with inputs := ins }) :=
    (step_request hs hi).trans (exec_accepted (s := { s with inputs := ins }) hs he)
  rw [run_succ hstep]
  exact run_sentAll rfl hsplit hu hd

/-- Settles O51: once all its words are sent nothing is pending, and the next step completes the request. -/
theorem requestRunsToOk : Obligations.RequestRunsToOk := by
  intro s w rest ws more hs hi hu he hd
  obtain ⟨hsend, hlast⟩ := undisturbedFor_add hu
  have hne : ws ≠ [] := List.length_pos_iff.1 (encodeRequest_words_length he).1
  have hrun := run_request_sentAll hs hi he (List.append_nil ws).symm hsend hd
  rw [run_add 1 hrun, run_succ (completeStep _ hlast rfl rfl), run_zero]
  simp [sentAll, accepted, hne, hd, dropQuiets_add]

/-- Settles O52: once the words before the failing one are sent, that one is the next pending word and ends the request. -/
theorem requestStopsAtFailure : Obligations.RequestStopsAtFailure := by
  intro s w rest ws k bad more hs hi hu he hk hd
  obtain ⟨hlt, hbad⟩ := List.getElem?_eq_some_iff.1 hk
  have hsplit : ws = ws.take k ++ bad :: ws.drop (k + 1) := by
    rw [← hbad, List.getElem_cons_drop, List.take_append_drop]
  have hlen : (ws.take k).length = k := List.length_take_of_le hlt.le
  rw [← hlen] at hu hd
  obtain ⟨hsend, hlast⟩ := undisturbedFor_add hu
  have hrun := run_request_sentAll hs hi he hsplit hsend hd
  have hdraws := sentAll_draws (s := accepted ws { s with inputs := rest }) hd (bad :: ws.drop (k + 1))
  have hfail := sendFailStep _ bad (ws.drop (k + 1)) hlast rfl rfl (nextOutcome_cons hdraws)
  rw [hlen] at hrun
  rw [run_add 1 hrun, run_succ hfail, run_zero, hdraws]
  simp [sentAll, accepted, hlen, dropQuiets_add, List.take_add_one, hk]

end Sys2Proof.Machine

/-! PROOFS. The family of 42_decimal_decomposer.md: the power-of-ten unit (R130), which values the decomposer takes (R132,
R133), the slots it gives (R132, R134, R135) and the number they show. -/

namespace Sys2Proof.Machine

/-! ### The decomposer by the sign of the value -/

theorem magnitudeSlots_of_neg {v : Int} (hv : v < 0) (n : Nat) : magnitudeSlots v n = n - 1 :=
  if_pos hv

theorem magnitudeSlots_of_nonneg {v : Int} (hv : 0 ≤ v) (n : Nat) : magnitudeSlots v n = n :=
  if_neg (Int.not_lt.2 hv)

/-- The slots left for magnitude digits as a difference, as 42_decimal_decomposer R132 writes it. -/
theorem sub_sign_eq_magnitudeSlots (v : Int) (n : Nat) : n - (if v < 0 then 1 else 0) = magnitudeSlots v n := by
  rw [magnitudeSlots]
  split <;> rfl

/-- A magnitude that reaches `10^k` overflows its `k` slots. -/
theorem decompose_of_overflow {v : Int} {n : Nat} (hn : n ≤ 9) (h : 10 ^ magnitudeSlots v n ≤ v.natAbs) :
    decompose v n = none := by
  rw [decompose_eq v hn, if_pos h]

/-- A magnitude below `10^k` gives its `k` digits, after a hyphen if the value is negative. -/
theorem decompose_of_fits {v : Int} {n : Nat} (hn : n ≤ 9) (h : v.natAbs < 10 ^ magnitudeSlots v n) :
    ∃ ds, digitSlots v.natAbs (magnitudeSlots v n) = some ds ∧
      decompose v n = some (if v < 0 then cbHyphen :: ds else ds) := by
  obtain ⟨ds, hds⟩ := digitSlots_isSome v.natAbs (e := magnitudeSlots v n) (by have := magnitudeSlots_le v n; omega)
  refine ⟨ds, hds, ?_⟩
  rw [decompose_eq v hn, if_neg (Nat.not_le.2 h), hds]
  split <;> rfl

theorem decompose_eq_none_iff (v : Int) {n : Nat} (hn : n ≤ 9) :
    decompose v n = none ↔ 10 ^ magnitudeSlots v n ≤ v.natAbs := by
  refine ⟨fun h => Nat.le_of_not_lt fun hlt => ?_, decompose_of_overflow hn⟩
  obtain ⟨ds, -, hds⟩ := decompose_of_fits hn hlt
  cases h.symm.trans hds

theorem decompose_ne_none_iff (v : Int) {n : Nat} (hn : n ≤ 9) :
    decompose v n ≠ none ↔ v.natAbs < 10 ^ magnitudeSlots v n := by
  rw [Ne, decompose_eq_none_iff v hn, Nat.not_le]

/-! ### The values that fit -/

/-- At most `e` decimal digits are needed exactly below `10^e`; only 0 needs a digit where `10^0` leaves none. -/
theorem decimalDigits_le_iff {m e : Nat} (h : m ≠ 0 ∨ 1 ≤ e) : decimalDigits m ≤ e ↔ m < 10 ^ e := by
  rw [decimalDigits]
  split
  · next h0 =>
    subst h0
    exact iff_of_true (h.resolve_left (· rfl)) (by positivity)
  · next h0 => rw [Nat.succ_le_iff, Nat.log_lt_iff_lt_pow (by decide) h0]

/-- The overflow test in the words of 42_decimal_decomposer R133. -/
theorem magnitude_overflows_iff (v : Int) (n : Nat) : 10 ^ magnitudeSlots v n ≤ v.natAbs ↔
    (0 ≤ v ∧ 10 ^ n ≤ v) ∨ (v < 0 ∧ (n = 1 ∨ 10 ^ (n - 1) ≤ v.natAbs)) := by
  rcases lt_or_ge v 0 with hv | hv
  · rw [magnitudeSlots_of_neg hv]
    have hone : n = 1 → 10 ^ (n - 1) ≤ v.natAbs := by
      rintro rfl
      exact Int.natAbs_pos.2 hv.ne
    rw [or_iff_right fun h => hv.not_ge h.1, and_iff_right hv, or_iff_right_of_imp hone]
  · rw [magnitudeSlots_of_nonneg hv]
    rw [or_iff_left fun h => hv.not_gt h.1, and_iff_right hv]
    zify
    rw [abs_of_nonneg hv]

/-- The range of the values that fit (42_decimal_decomposer R133). -/
theorem magnitude_fits_iff_range (v : Int) {n : Nat} (h1 : 1 ≤ n) : v.natAbs < 10 ^ magnitudeSlots v n ↔
    -(10 ^ (n - 1) - 1) ≤ v ∧ v ≤ 10 ^ n - 1 := by
  obtain ⟨k, rfl⟩ := Nat.exists_eq_add_of_le' h1
  have hpos : 0 < 10 ^ k := by positivity
  have hcast : ((10 ^ k : Nat) : Int) = 10 ^ k := Nat.cast_pow 10 k
  rcases lt_or_ge v 0 with hv | hv
  · rw [magnitudeSlots_of_neg hv, Nat.add_sub_cancel, pow_succ]
    omega
  · rw [magnitudeSlots_of_nonneg hv, Nat.add_sub_cancel, pow_succ, pow_succ]
    omega

/-- The count of digits and sign of the values that fit (42_decimal_decomposer R133). -/
theorem magnitude_fits_iff_digits (v : Int) {n : Nat} (h1 : 1 ≤ n) : v.natAbs < 10 ^ magnitudeSlots v n ↔
    decimalDigits v.natAbs + (if v < 0 then 1 else 0) ≤ n := by
  rcases lt_or_ge v 0 with hv | hv
  · rw [magnitudeSlots_of_neg hv, if_pos hv, ← decimalDigits_le_iff (.inl (Int.natAbs_ne_zero.2 hv.ne))]
    omega
  · rw [magnitudeSlots_of_nonneg hv, if_neg (Int.not_lt.2 hv), ← decimalDigits_le_iff (.inr h1), Nat.add_zero]

/-- Settles O17: `decompose` tests the magnitude against a power of ten, and that test has the three forms. -/
theorem decomposeFitsExactly : Obligations.DecomposeFitsExactly := by
  refine ⟨fun v n h1 h8 => ?_, by decide⟩
  have h9 : n ≤ 9 := by omega
  rw [decompose_ne_none_iff v h9, decompose_eq_none_iff v h9]
  exact ⟨magnitude_overflows_iff v n, magnitude_fits_iff_range v h1, magnitude_fits_iff_digits v h1⟩

/-! ### The slots -/

/-- Settles O18: the digits of the magnitude stand in the slots after the hyphen, if there is one. -/
theorem decomposeSlots : Obligations.DecomposeSlots := by
  intro v n h1 h8
  have h9 : n ≤ 9 := by omega
  rw [sub_sign_eq_magnitudeSlots]
  refine ⟨decompose_of_overflow h9, fun hfits => ?_⟩
  obtain ⟨ds, hds, hslots⟩ := decompose_of_fits h9 hfits
  refine ⟨_, hslots, decompose_length h1 h9 hslots, fun i hi => ?_⟩
  rcases lt_or_ge v 0 with hv | hv
  · rw [magnitudeSlots_of_neg hv] at hds
    rw [if_pos hv]
    cases i with
    | zero => simp [hv, cbHyphen]
    | succ j =>
      have hexp : n - 1 - (j + 1) = n - 1 - 1 - j := by omega
      rw [List.getElem?_cons_succ, digitSlots_getElem hds (by omega), if_neg (by simp), hexp]
  · rw [magnitudeSlots_of_nonneg hv] at hds
    rw [if_neg (Int.not_lt.2 hv), if_neg (fun h => Int.not_lt.2 hv h.1), digitSlots_getElem hds hi]

/-! ### Reading the slots back -/

/-- A decimal digit is its own 4-bit number (43_font_table R154). -/
theorem toNat_digitSlot (q : Nat) : (BitVec.ofNat 4 (q % 10)).toNat = q % 10 := by
  rw [BitVec.toNat_ofNat]
  omega

/-- No magnitude digit is read as a sign (42_decimal_decomposer R134). -/
theorem digitSlot_ne_hyphen (q : Nat) : BitVec.ofNat 4 (q % 10) ≠ cbHyphen := by
  intro h
  have h10 : q % 10 = 10 := (toNat_digitSlot q).symm.trans (congrArg BitVec.toNat h)
  omega

/-- The lowest `e` digits of `m`, read after the digits of `acc`. -/
theorem digitsShown_digitSlots {m e : Nat} {ds : List (BitVec 4)} (h : digitSlots m e = some ds) (acc : Nat) :
    digitsShown acc ds = acc * 10 ^ e + m % 10 ^ e := by
  induction e generalizing ds acc with
  | zero =>
    obtain rfl : [] = ds := Option.some.inj h
    simp [digitsShown, Nat.mod_one]
  | succ e ih =>
    obtain ⟨rest, -, hrest, rfl⟩ := digitSlots_succ h
    rw [digitsShown, toNat_digitSlot, ih hrest, Nat.mod_pow_succ]
    ring

/-- A row of one or more digits shows a number without sign. -/
theorem numberShown_digitSlots {m e : Nat} {ds : List (BitVec 4)} (he : 1 ≤ e) (h : digitSlots m e = some ds) :
    numberShown ds = (digitsShown 0 ds : Int) := by
  obtain ⟨k, rfl⟩ := Nat.exists_eq_add_of_le' he
  obtain ⟨rest, -, -, rfl⟩ := digitSlots_succ h
  exact if_neg (digitSlot_ne_hyphen _)

/-- Settles O19: the digits show the magnitude, which is below the power of ten they count up to. -/
theorem decomposedNumberReadsBack : Obligations.DecomposedNumberReadsBack := by
  intro v n slots h1 h8 hs
  have h9 : n ≤ 9 := by omega
  have hfits := (decompose_ne_none_iff v h9).1 (by simp [hs])
  obtain ⟨ds, hds, hslots⟩ := decompose_of_fits h9 hfits
  obtain rfl := Option.some.inj (hs.symm.trans hslots)
  have hshown : digitsShown 0 ds = v.natAbs := by
    rw [digitsShown_digitSlots hds, Nat.mod_eq_of_lt hfits, Nat.zero_mul, Nat.zero_add]
  rcases lt_or_ge v 0 with hv | hv
  · rw [if_pos hv, numberShown, if_pos rfl, hshown]
    omega
  · rw [magnitudeSlots_of_nonneg hv] at hds
    rw [if_neg (Int.not_lt.2 hv), numberShown_digitSlots h1 hds, hshown]
    omega

/-! ### The power-of-ten unit -/

/-- Settles O16: up to the exponent 9 the power is at most `10^9`, which is below `2^32`. -/
theorem powerOfTen : Obligations.PowerOfTen :=
  ⟨fun _ he => ⟨ipow10_of_le he, (Nat.pow_le_pow_right (by decide) he).trans_lt (by decide)⟩, fun _ => ipow10_of_gt,
    by decide⟩

end Sys2Proof.Machine

/-! PROOFS. The family of 43_font_table.md: the font table (R150), its port (R153) and the Code-B index table (R154). -/

namespace Sys2Proof.Machine

/-! ### The font table -/

section
variable {c : Byte}

/-- The digits stand at places 0 to 9 of `FONT7` (43_font_table R152). -/
theorem fontIndex_digit (h : 0x30 ≤ c.toNat ∧ c.toNat ≤ 0x39) : fontIndex c = some ⟨c.toNat - 0x30, by omega⟩ :=
  dif_pos h

/-- The capital letters stand at places 10 to 35 of `FONT7` (43_font_table R152). -/
theorem fontIndex_letter (h : 0x41 ≤ c.toNat ∧ c.toNat ≤ 0x5A) :
    fontIndex c = some ⟨c.toNat - 0x41 + 10, by omega⟩ := by
  have hdigit : ¬ (0x30 ≤ c.toNat ∧ c.toNat ≤ 0x39) := by omega
  rw [fontIndex, dif_neg hdigit, dif_pos h]

theorem fontIndex_other (hdigit : ¬ (0x30 ≤ c.toNat ∧ c.toNat ≤ 0x39))
    (hletter : ¬ (0x41 ≤ c.toNat ∧ c.toNat ≤ 0x5A)) : fontIndex c = none := by
  rw [fontIndex, dif_neg hdigit, dif_neg hletter]

/-- A hit gives the pattern at the character's place, with a 0 put above its seven bits. -/
theorem fontLookup_hit (p : Params) {k : Fin 36} (h : fontIndex c = some k) :
    fontLookup p c = ⟨c, true, ((p.font7[k.val]?).getD 0).setWidth 8⟩ := by
  have hpat : (0 : BitVec 1) ++ p.font7[k.val] = (p.font7[k.val]).setWidth 8 :=
    (BitVec.setWidth_eq_append (by decide)).symm
  rw [Vector.getElem?_eq_getElem k.isLt, Option.getD_some, ← hpat]
  simp only [fontLookup, h, Fin.getElem_fin]

theorem fontLookup_miss (p : Params) (h : fontIndex c = none) : fontLookup p c = ⟨c, false, 0x00⟩ := by
  simp only [fontLookup, h]

/-- No answer of the font table lights the decimal point: a pattern has seven bits, and a miss is dark. -/
theorem fontLookup_pat_bit7 (p : Params) (c : Byte) : (fontLookup p c).pat.getLsbD 7 = false := by
  cases h : fontIndex c with
  | some k => rw [fontLookup_hit p h]; simp
  | none => rw [fontLookup_miss p h]; simp

end

/-- Settles O20: the place of each character in `FONT7` decides between a hit and a miss. -/
theorem fontLookupTable : Obligations.FontLookupTable := fun p c =>
  ⟨fun h => fontLookup_hit p (fontIndex_digit h), fun h => fontLookup_hit p (fontIndex_letter h),
    fun hdigit hletter => fontLookup_miss p (fontIndex_other hdigit hletter), fontLookup_pat_bit7 p c⟩

/-! ### The Code-B index table -/

theorem codebIndex_digit {c : Byte} (h : 0x30 ≤ c.toNat ∧ c.toNat ≤ 0x39) :
    codebIndex c = ⟨true, BitVec.ofNat 4 (c.toNat - 0x30)⟩ := if_pos h

theorem codebIndex_other {c : Byte} (hdigit : ¬ (0x30 ≤ c.toNat ∧ c.toNat ≤ 0x39))
    (hsymbol : c ∉ [0x2D, 0x45, 0x48, 0x4C, 0x50, (0x20 : Byte)]) : codebIndex c = ⟨false, 0⟩ := by
  simp only [List.mem_cons, List.not_mem_nil, or_false, not_or] at hsymbol
  obtain ⟨hhyphen, hE, hH, hL, hP, hblank⟩ := hsymbol
  rw [codebIndex, if_neg hdigit, if_neg hhyphen, if_neg hE, if_neg hH, if_neg hL, if_neg hP, if_neg hblank]

/-- Settles O21: a digit by its place among the digits, each of the six symbols by the index that shows it. -/
theorem codeBIndexTable : Obligations.CodeBIndexTable := by
  refine ⟨fun d hd => ?_, codebIndex_codebSymbol 0xA, codebIndex_codebSymbol 0xB, codebIndex_codebSymbol 0xC,
    codebIndex_codebSymbol 0xD, codebIndex_codebSymbol 0xE, codebIndex_codebSymbol 0xF, fun c => codebIndex_other⟩
  have hcode : (BitVec.ofNat 8 (0x30 + d)).toNat = 0x30 + d := by
    rw [BitVec.toNat_ofNat]
    omega
  rw [codebIndex_digit (by omega), hcode, Nat.add_sub_cancel_left]

/-! ### The font port -/

/-- A font query that is next is answered, whatever the phase (43_font_table R153). -/
theorem step_fontQuery {s : State} {c : Byte} {rest : List Input} (h : s.inputs = .fontQuery c :: rest) :
    step s = .next (queryFont c { s with inputs := rest }) := by
  simp only [step, nextMove, h]

/-- Settles O48: the step is the query alone, and the query adds its answer to the record and nothing else. -/
theorem fontQueryChangesNothing : Obligations.FontQueryChangesNothing := fun _ _ _ h => step_fontQuery h

end Sys2Proof.Machine

/-! PROOFS. The family of 60_exceptions.md: when InvalidArgument is raised (R171), when a step stops (R172), and the select
bracket of every transmission (R178). -/

namespace Sys2Proof.Machine

/-! ### InvalidArgument -/

/-- Settles O34: `encode` follows the table of R171 both ways, and an accepted request has at least one word. -/
theorem invalidArgumentExactly : Obligations.InvalidArgumentExactly := by
  refine fun i s hs => ⟨exec_of_invalidDue hs, fun h => ?_⟩
  obtain ⟨ws, he, -⟩ := encodeRequest_of_not_invalidDue h
  exact ⟨ws, List.length_pos_iff.1 (encodeRequest_words_length he).1, exec_accepted hs he⟩

/-! ### When a step stops -/

/-- A request is answered with a next state exactly when the block is `Idle` (10_state R29). -/
theorem exec_answers_iff {i : Instr} {s : State} : (∃ t, exec i s = .next t) ↔ s.phase = .idle := by
  refine ⟨fun ⟨t, h⟩ => (exec_next h).1, fun hs => ?_⟩
  cases he : encodeRequest s.params i with
  | invalidArgument => exact ⟨_, exec_rejected hs he⟩
  | words ws => exact ⟨_, exec_accepted hs he⟩

theorem phase_ne_busy_iff {s : State} : s.phase ≠ .busy ↔ s.phase = .idle := by
  cases s.phase <;> simp

/-- A reset that is next is made, whatever the phase (70_reset R190, R192). -/
theorem step_reset {s : State} {rest : List Input} (h : s.inputs = .reset :: rest) :
    step s = .next (resetBlock { s with inputs := rest }) := by
  simp only [step, nextMove, h]

/-- A step with a waiting request next answers: `Idle`, the block takes it; `Busy`, it makes its own step. -/
theorem step_request_answers {s : State} {w : ReqWord} {rest : List Input} (hi : s.inputs = .request w :: rest) :
    ∃ t, step s = .next t := by
  cases hp : s.phase with
  | idle =>
    rw [step_request hp hi]
    exact exec_answers_iff.2 hp
  | busy => exact ⟨_, step_undisturbed (by rw [hi]; trivial) hp⟩

/-- Settles O59, by the input that is next; only a request presented without waiting needs an `Idle` block. -/
theorem stepsStopOnlyOnBreach : Obligations.StepsStopOnlyOnBreach := by
  intro s
  cases hi : s.inputs with
  | nil => simp [step_noInput hi]
  | cons m rest =>
    cases m with
    | request w => simp [step_request_answers hi]
    | requestNow w => simp [step_requestNow hi, exec_answers_iff, phase_ne_busy_iff]
    | fontQuery c => simp [step_fontQuery hi]
    | reset => simp [step_reset hi]
    | quiet => simp [step_quiet hi]

/-! ### The bracket of a transmission -/

/-- No event of the list is a transmission. -/
def NoXfer (es : List Event) : Prop := ∀ u q, Event.xfer u q ∉ es

/-- From `s` to `t` no transport call was made and no transmission recorded, or one whole bracket and its transmission. -/
def AtMostOneBracket (s t : State) : Prop :=
  (t.calls = s.calls ∧ ∃ es, t.trace = s.trace ++ es ∧ NoXfer es) ∨
  ∃ w r es, t.calls = s.calls ++ bracketOf s.params.csId w ∧ t.sel = false ∧ t.trace = s.trace ++ .xfer w r :: es ∧
    NoXfer es

theorem noXfer_nil : NoXfer [] := fun _ _ => List.not_mem_nil

theorem noXfer_respond (st : Status) (n : BitVec 4) : NoXfer [.respond st n] := fun _ _ h =>
  nomatch List.mem_singleton.1 h

namespace AtMostOneBracket

variable {s t : State}

/-- Nothing is recorded and no call is made. -/
theorem silent (hcalls : t.calls = s.calls) (htrace : t.trace = s.trace) : AtMostOneBracket s t :=
  .inl ⟨hcalls, [], by simpa using htrace, noXfer_nil⟩

/-- A response is recorded and no call is made. -/
theorem response {st : Status} {n : BitVec 4} (hcalls : t.calls = s.calls)
    (htrace : t.trace = s.trace ++ [.respond st n]) : AtMostOneBracket s t :=
  .inl ⟨hcalls, _, htrace, noXfer_respond st n⟩

/-- A request only ever records a response; its words are sent by later steps. -/
theorem exec {i : Instr} (h : exec i s = .next t) : AtMostOneBracket s t := by
  obtain ⟨-, ⟨-, rfl⟩ | ⟨ws, -, rfl⟩⟩ := exec_next h
  · exact response rfl rfl
  · exact silent rfl rfl

/-- The block's own step: Send-ok and Send-fail make the bracket of the first pending word, the others make no call. -/
theorem advance (s : State) : AtMostOneBracket s (advance s) := by
  rcases advance_cases s with ⟨-, e⟩ | ⟨-, -, e⟩ | ⟨w, rest, -, -, -, e⟩ | ⟨w, rest, -, -, -, e⟩ <;> rw [e]
  · exact silent rfl rfl
  · exact response (complete_calls s) (complete_trace s)
  · exact .inr ⟨w, nextOutcome s, [], xfer_calls s w, xfer_sel s w, xfer_trace s w, noXfer_nil⟩
  · exact .inr ⟨w, nextOutcome s, [.respond .transportFailure s.sent], xfer_calls s w, xfer_sel s w, by simp,
      noXfer_respond .transportFailure s.sent⟩

end AtMostOneBracket

/-- Settles O57, by the four things a step can do; resets and font queries make no transport call. -/
theorem oneBracketPerStep : Obligations.OneBracketPerStep := by
  intro s t hs
  rcases step_cases hs with ⟨i, rest, -, he⟩ | ⟨ins, rfl⟩ | ⟨rest, -, rfl⟩ | ⟨c, rest, -, rfl⟩
  · exact (AtMostOneBracket.exec he :)
  · exact AtMostOneBracket.advance { s with inputs := ins }
  · exact AtMostOneBracket.silent (resetBlock_calls _) (resetBlock_trace _)
  · exact AtMostOneBracket.silent (queryFont_calls _ c) (queryFont_trace _ c)

end Sys2Proof.Machine

/-! PROOFS. The family of 70_reset_and_hazards.md: a reset in either phase (R190, R192), which positions the decode mask
reaches (R195), and the configuration cell after a configuration word (R196). -/

namespace Sys2Proof.Machine

/-! ### Reset in either phase -/

/-- A reset while `Idle` keeps the observation (log entry 9). -/
theorem resetBlock_of_idle {s : State} (h : s.phase = .idle) : resetBlock s = { toIdle s with sel := false } := by
  rw [resetBlock, h]

/-- A reset while `Busy` makes every target cell unknown (70_reset R192). -/
theorem resetBlock_of_busy {s : State} (h : s.phase = .busy) :
    resetBlock s = { toIdle s with sel := false, target := Target.unknown } := by
  rw [resetBlock, h]

/-- Settles O46: the step is the reset of a `Busy` block. -/
theorem resetWhileBusy : Obligations.ResetWhileBusy := by
  intro s rest hb hi
  rw [step_reset hi, resetBlock_of_busy (s := { s with inputs := rest }) hb, toIdle]

/-- Settles O47: the step is the reset of an `Idle` block, whose phase is `Idle` already. -/
theorem resetWhileIdle : Obligations.ResetWhileIdle := by
  intro s rest hs hi
  rw [step_reset hi, resetBlock_of_idle (s := { s with inputs := rest }) hs, toIdle, ← hs]

/-! ### A word to a control register -/

section
variable {p : Params} (hp : p.wellFormed) (t : Target) {a : Byte} (d : Byte)
include hp

/-- A word to a control register is read back from that register's cell, whatever the cell held. -/
theorem Target.reg_read_controlWord (ha : a ∈ p.controlAddrs) :
    (t.applyXfer p (cmd a d) .ok).reg.read a.toNat = some d := by
  rw [applyXfer_ok_reg, store_reg_read, cmdAddr_cmd, cmdData_cmd]
  exact if_pos ⟨rfl, fun _ hb => control_not_inBlock hp ha hb⟩

/-- A word to the decode register leaves the digit cells alone: it lies in no digit block and resets no data. -/
theorem Target.cells_decodeWord (second : Bool) :
    (t.applyXfer p (cmd p.addrDecode d) .ok).cells second = t.cells second := by
  have hreset : resetsData p (cmd p.addrDecode d) = false := by
    simp [resetsData, Ne.symm (addrConfig_distinct hp).1]
  have hblock : ∀ b ∈ p.bases, ¬ inBlock b p.addrDecode := fun b hb =>
    control_not_inBlock hp (by simp [Params.controlAddrs]) hb
  simp only [Params.bases, List.forall_mem_cons] at hblock
  obtain ⟨h0, h1, h2, -⟩ := hblock
  rw [applyXfer, hreset, cmdAddr_cmd, store, if_neg h0, if_neg h1, if_neg h2]
  rfl

end

/-- A configuration word decides every field of the configuration cell, and leaves every other bit 0 (70_reset R196). -/
theorem configCell_of_configWord {p : Params} (hp : p.wellFormed) (t : Target) (op rd br be : Bool) :
    ∃ v, (t.applyXfer p (cmd p.addrConfig (packConfiguration p op rd br be false)) .ok).reg.read p.addrConfig.toNat =
        some v ∧
      configFields p v = ⟨op, br, be, false, rd⟩ ∧ ∀ k : Fin 8, k ∉ p.cfgBits → v.getLsbD k = false :=
  ⟨_, t.reg_read_controlWord hp _ (by simp [Params.controlAddrs]), configFields_packConfiguration hp.2.2 _ _ _ _ _,
    fun _ => packConfiguration_unnamed _ _ _ _ _ _⟩

/-- Settles O58: CLEAR and SETBLINK each send one configuration word. -/
theorem configurationRewrittenWhole : Obligations.ConfigurationRewrittenWhole := fun p t hp =>
  ⟨⟨_, rfl, configCell_of_configWord hp t false true false false⟩,
    fun _ be br hmode => ⟨_, encodeRequest_setblink p hmode, configCell_of_configWord hp t p.blinkOpMode false br be⟩⟩

/-! ### A word to a digit register -/

/-- A digit request that writes a plane goes to the both block or to the plane's own block. -/
theorem planeBase_of_writesPlane {p : Params} {pl : PlaneCode} {second : Bool} {b : Byte}
    (hw : writesPlane pl second = true) (hb : planeBase p pl = some b) :
    b = (if second then p.baseP1 else p.baseP0) ∨ b = p.baseBoth := by
  match pl, second, hw, hb with
  | .p0, false, _, rfl => exact .inl rfl
  | .p1, true, _, rfl => exact .inl rfl
  | .both, _, _, rfl => exact .inr rfl

section
variable {p : Params} (hp : p.wellFormed) (t : Target) {b : Byte} (d : Byte) {k : Nat} (hk : k ≤ 7)
include hp hk

/-- A digit word lies in a digit block, so it changes no control register. -/
theorem Target.reg_read_digitWord (hb : b ∈ p.bases) (n : Nat) :
    (t.applyXfer p (cmd (b + BitVec.ofNat 8 k) d) .ok).reg.read n = t.reg.read n := by
  rw [applyXfer_ok_reg, store_reg_read, cmdAddr_cmd]
  exact if_neg fun h => h.2 b hb (digitAddr_inBlock hp hb hk)

/-- A digit word is no configuration word, so it resets no data. -/
theorem resetsData_digitWord (hb : b ∈ p.bases) : resetsData p (cmd (b + BitVec.ofNat 8 k) d) = false := by
  have hne : b + BitVec.ofNat 8 k ≠ p.addrConfig := fun h =>
    control_not_inBlock hp (by simp [Params.controlAddrs]) hb (h ▸ digitAddr_inBlock hp hb hk)
  simp [resetsData, hne]

/-- A digit word is read back from its cell on each plane it writes. -/
theorem Target.cells_read_digitWord {pl : PlaneCode} {second : Bool} (hw : writesPlane pl second = true)
    (hb : planeBase p pl = some b) :
    ((t.applyXfer p (cmd (b + BitVec.ofNat 8 k) d) .ok).cells second).read k = some d := by
  have hmem := planeBase_mem hb
  have haddr := digitAddr_toNat hp hmem hk
  have hreset := resetsData_digitWord hp d hk hmem
  have hblock := planeBase_of_writesPlane hw hb
  obtain ⟨hp0, hp1, -⟩ := transmissionCells p t (cmd (b + BitVec.ofNat 8 k) d) hp
  rw [hreset, cmdAddr_cmd, cmdData_cmd, haddr] at hp0 hp1
  cases second with
  | false => exact (hp0 k hk).trans (if_pos (hblock.imp (· ▸ rfl) (· ▸ rfl)))
  | true => exact (hp1 k hk).trans (if_pos (hblock.imp (· ▸ rfl) (· ▸ rfl)))

end

/-! ### How a position is read -/

/-- With the decode mask known, a position is read by its cell alone. -/
theorem Target.digitLook_of_mask {p : Params} {t : Target} {mask : Byte} (h : t.reg.read p.addrDecode.toNat = some mask)
    (second : Bool) (k : Fin 8) : t.digitLook p second k = ((t.cells second).read k).map fun v =>
      if decodeEnabled mask k then .codeB (codebSymbol (digitValue v)) (digitPoint v)
      else .segments (v.extractLsb' 0 7) (digitPoint v) := by
  rw [digitLook, h]
  cases (t.cells second).read k <;> rfl

/-- Taking apart the answer of `encode` for SETDECODE. -/
theorem encodeSetdecode_words {p : Params} {mask : Nat} {ws : List CmdWord}
    (h : encodeRequest p (.setdecode mask) = .words ws) :
    mask ≤ decodeMaskLimit p.decodeMaskMax ∧ ws = [cmd p.addrDecode (BitVec.ofNat 8 mask)] := by
  rw [encodeRequest, encodeSetdecode] at h
  split at h
  · cases h
  · next hm => exact ⟨by omega, (EncodeResult.words.inj h).symm⟩

/-- Settles O60: the decode cell holds the mask, below 8 at 0x07, and a digit word to an enabled position is read back from
its cell without touching the mask. -/
theorem decodeCoverage : Obligations.DecodeCoverage := by
  have hctl (p : Params) : p.addrDecode ∈ p.controlAddrs := by simp [Params.controlAddrs]
  constructor
  · intro p t mask w second k hp hmax he hk
    obtain ⟨hmask, hw⟩ := encodeSetdecode_words he
    cases hw
    rw [hmax, decodeMaskLimit] at hmask
    have hraw : mask.testBit k = false :=
      Nat.testBit_lt_two_pow (calc
        mask < 2 ^ 3 := by omega
        _ ≤ 2 ^ k.val := Nat.pow_le_pow_right (by decide) hk)
    rw [Target.digitLook_of_mask (t.reg_read_controlWord hp _ (hctl p)), t.cells_decodeWord hp, decodeEnabled_ofNat, hraw]
    rfl
  · intro p t pl second mask value dp w u k hp hpl hew heu hbit
    obtain ⟨-, hw⟩ := encodeSetdecode_words hew
    cases hw
    obtain ⟨hk, -, b, hb, hu⟩ := encodeDigit_words heu
    cases hu
    obtain ⟨-, hpoint, hvalue⟩ := digitData_fields dp (BitVec.ofNat 4 value)
    have hmask := (Target.reg_read_digitWord hp _ (digitData dp (BitVec.ofNat 4 value)) hk (planeBase_mem hb) _).trans
      (t.reg_read_controlWord hp (BitVec.ofNat 8 mask) (hctl p))
    rw [Target.digitLook_of_mask hmask, Target.cells_read_digitWord hp _ _ hk hpl hb, decodeEnabled_ofNat, hbit,
      Option.map_some, if_pos rfl, hpoint, hvalue]

end Sys2Proof.Machine
